-- ==== Sys2Proof/Word.lean ====
section
/-! DEFINITION. The word types of the hardware: a data byte, a target address, a packed command word, and
an exact duration or rate. -/

namespace Sys2Proof

/-- DataByte (0..255), and the contents of one 8-bit expander register (00_scope.md section 5, R12). -/
abbrev Byte := BitVec 8

/-- AddressValue (0..65535), 16 bits (00_scope.md section 5, R40). -/
abbrev Addr := BitVec 16

/-- The 32-bit command word `W` of R63. -/
abbrev Word := BitVec 32

/-- A duration in seconds, a rate in hertz or a time stamp: exact rationals (R67; assumption 12). -/
abbrev Quantity := Rat

end Sys2Proof
end

