-- ==== Sys2Proof/Config.lean ====
section
/-! DEFINITION. What an implementation fixes (00_scope.md section 5): the ports, the signals, the pin map and
the parameters, as plain data of type `Params`; and the free values, opaque constants without a body. -/

namespace Sys2Proof

/-- The six 8-bit expander ports (R11). -/
inductive Port where
  /-- the data expander's low port: D7..D0 -/
  | dataLo
  /-- the data expander's other port: BUSACK, M1 and, by decision D3, CLK, INT and the four strobes -/
  | dataHi
  /-- the address expander's port of A15..A8, bit-reversed -/
  | addrHi
  /-- the address expander's port of A7..A0, bit-reversed -/
  | addrLo
  /-- the control expander's first port -/
  | ctrlA
  /-- the control expander's second port -/
  | ctrlB
  deriving DecidableEq, Repr

/-- The three expander chips in transport-address order (R11). -/
inductive Chip where
  | data | control | address
  deriving DecidableEq, Repr

/-- The twelve named control signals (R14). -/
inductive Signal where
  | m1 | clk | int | mreq | wr | rd | iorq | busack | busreq | reset | clken | clkout
  deriving DecidableEq, Repr

/-- The pin groups (R19). -/
inductive Group where
  | addr | data | strobes
  deriving DecidableEq, Repr

/-- One pin: a port and a bit of it. -/
structure Pin where
  port : Port
  bit : Fin 8
  deriving DecidableEq, Repr

/-- `PINMAP`: the pin of each named signal (R13). The pins of the address and data buses are whole ports. -/
structure PinMap where
  m1 : Pin
  clk : Pin
  int : Pin
  mreq : Pin
  wr : Pin
  rd : Pin
  iorq : Pin
  busack : Pin
  busreq : Pin
  reset : Pin
  clken : Pin
  clkout : Pin
  deriving DecidableEq, Repr

/-- `ADDR_PORT_ORDER`: which address port is written first (D4). -/
inductive PortOrder where
  | hiFirst | loFirst
  deriving DecidableEq, Repr

/-- One region of `BANK_MAP`: with the bank register at `bank` (any value, for `none`), the addresses `lo..hi`
reach the memory cells `base`, `base + 1`, … (R50). A cell that is not `writable` ignores writes (R47). -/
structure Region where
  bank : Option Byte
  lo : Addr
  hi : Addr
  base : Nat
  writable : Bool
  deriving DecidableEq, Repr

/-- The implementation parameters of 00_scope.md section 5. A run never changes them; they stand in `State` as
plain data so that a statement about every state is a statement about every value of them (assumption 1).
An electrical level is a `Bool`: `true` is 1. -/
structure Params where
  /-- `I2C_BASE`, the transport address of the data expander (D37) -/
  i2cBase : Nat
  /-- `PINMAP` (D3) -/
  pins : PinMap
  /-- `LEVEL_ASSERTED(BUSREQ)` (D2) -/
  busreqLevel : Bool
  /-- `LEVEL_ASSERTED(M1)` (D2) -/
  m1Level : Bool
  /-- `LEVEL_ASSERTED(INT)` (D2) -/
  intLevel : Bool
  /-- `LEVEL_ASSERTED(CLKEN)` (D15) -/
  clkenLevel : Bool
  /-- `LEVEL_ASSERTED(RESET)`, 0 as stated, overridable (D2) -/
  resetLevel : Bool
  /-- `LEVEL_ASSERTED(MREQ)`, 0 as stated, overridable (D2) -/
  mreqLevel : Bool
  /-- `LEVEL_ASSERTED(WR)`, 0 as stated, overridable (D2) -/
  wrLevel : Bool
  /-- `LEVEL_ASSERTED(RD)`, 0 as stated, overridable (D2) -/
  rdLevel : Bool
  /-- `LEVEL_ASSERTED(IORQ)`, 0 as stated, overridable (D2) -/
  iorqLevel : Bool
  /-- `BUSACK_GRANT_LEVEL` (D2) -/
  busackGrantLevel : Bool
  /-- `DIR_INPUT_BIT` (D36) -/
  dirInputBit : Bool
  /-- `ADDR_PORT_ORDER` (D4) -/
  addrPortOrder : PortOrder
  /-- `BANK_SELECT_PORT` (D25) -/
  bankSelectPort : Addr
  /-- `BANK_MAP` (D25): the first region that matches decides; no region is an absent device -/
  bankMap : List Region
  /-- `T_RESET_MIN` in seconds (D27) -/
  tResetMin : Quantity
  /-- `POLL_LIMIT` (D12) -/
  pollLimit : Option Nat
  /-- `TRANSPORT_MAY_FAIL` (D13) -/
  transportMayFail : Bool
  /-- `CLOCK_REQUIRES_ACQUIRED` (D20) -/
  clockRequiresAcquired : Bool
  deriving DecidableEq, Repr

/-- FREE VALUE. The `n`-th draw: what a pin reads that nothing drives, or that two agents drive, and the byte an
IO device answers (R49, R51, D26, U4 to U6; assumption 2). -/
opaque Config.freeByte : Nat → Byte

/-- FREE VALUE. The byte that memory cell `a` of the target holds before anything is known to have written it
(R214, U3; assumption 3). -/
opaque Config.powerOnByte : Nat → Byte

/-- FREE VALUE. Whether the `n`-th cancelled `iowatch` releases the bus (R169, U23; assumption 4). -/
opaque Config.iowatchReleases : Nat → Bool

end Sys2Proof
end

