-- ==== Sys2Proof/Syntax.lean ====
section
/-! DEFINITION. The commands as abstract records (R60, R62): one constructor per row of spec/opcode_table.json, in
the table's order. An operand is held at the width a caller may write it, so that the domain check of R61 and R70
is an operation of the model and not a side effect of a type. -/

namespace Sys2Proof

/-- A command (R60). Operands are unsigned; `rate` is in hertz (R61). -/
inductive Instr where
  /-- `RESET()`, R90 -/
  | reset
  /-- `TAKE_BUS()` without a bank, R91 -/
  | takeBus
  /-- `TAKE_BUS(bank)`, R91 and R94 -/
  | takeBusBank (bank : Nat)
  /-- `RELEASE_BUS(reset)`, R95 -/
  | releaseBus (reset : Bool)
  /-- `MEM_READ(addr)`, R112 -/
  | memRead (addr : Nat)
  /-- `MEM_WRITE(addr, data)`, R113 -/
  | memWrite (addr data : Nat)
  /-- `IO_READ(addr)`, R114 -/
  | ioRead (addr : Nat)
  /-- `IO_WRITE(addr, data)`, R115 -/
  | ioWrite (addr data : Nat)
  /-- `NORMAL_CLOCK()`, R131 -/
  | normalClock
  /-- `SLOW_CLOCK(rate)`, R132 -/
  | slowClock (rate : Quantity)
  /-- `SINGLESTEP_ON()`, R141 -/
  | singlestepOn
  /-- `SINGLESTEP_OFF()`, R142 -/
  | singlestepOff
  /-- `AUTOSTEP(rate)`, R146 -/
  | autostep (rate : Quantity)
  /-- `STEP_WAIT()`, R145 -/
  | stepWait
  /-- `M1_RELEASE_WAIT()`, R144 -/
  | m1ReleaseWait
  /-- `LATCH_ADDRESS(addr)`, R82 -/
  | latchAddress (addr : Nat)
  /-- `BANK_SELECT(bank)`, R116 -/
  | bankSelect (bank : Nat)
  deriving DecidableEq, Repr

end Sys2Proof
end

