-- ==== Sys2Proof/WellFormed.lean ====
section
/-! DEFINITION. When a command is well formed (the operand domains of R61), when it has a packed form (R63), and
when the parameters meet the constraints the spec puts on them (R13, 00_scope.md section 5). -/

namespace Sys2Proof

/-- The operand domains of R61: addresses 0..65535, bytes 0..255, rates above 0. -/
abbrev Instr.WellFormed : Instr → Prop
  | .takeBusBank b | .bankSelect b => b < 256
  | .memRead a | .ioRead a | .latchAddress a => a < 65536
  | .memWrite a d | .ioWrite a d => a < 65536 ∧ d < 256
  | .slowClock r | .autostep r => 0 < r.num
  | .reset | .takeBus | .releaseBus _ | .normalClock | .singlestepOn | .singlestepOff
  | .stepWait | .m1ReleaseWait => True

/-- A rate that the packed form can express: a whole number 1..65535 of hertz (R63). -/
abbrev wholeRate (r : Quantity) : Prop := r.den = 1 ∧ 0 < r.num ∧ r.num < 65536

/-- The commands that have a packed form: every well-formed command but those of other rates (R63). -/
abbrev Instr.Packable : Instr → Prop
  | .slowClock r | .autostep r => wholeRate r
  | _ => True

/-- Every named signal. -/
def Signal.all : List Signal :=
  [.m1, .clk, .int, .mreq, .wr, .rd, .iorq, .busack, .busreq, .reset, .clken, .clkout]

/-- The pin of a signal. -/
def PinMap.pin (p : PinMap) : Signal → Pin
  | .m1 => p.m1
  | .clk => p.clk
  | .int => p.int
  | .mreq => p.mreq
  | .wr => p.wr
  | .rd => p.rd
  | .iorq => p.iorq
  | .busack => p.busack
  | .busreq => p.busreq
  | .reset => p.reset
  | .clken => p.clken
  | .clkout => p.clkout

/-- What R13 fixes of `PINMAP`: distinct signals have distinct pins; `DATA.LO`, `ADDR.HI` and `ADDR.LO` are the
data and address buses, so no control signal is there; BUSACK and M1 are on `DATA.HI`. -/
abbrev PinMap.WellFormed (p : PinMap) : Prop :=
  (Signal.all.map p.pin).Nodup ∧
    (Signal.all.all fun s => (p.pin s).port != .dataLo && (p.pin s).port != .addrHi && (p.pin s).port != .addrLo)
      = true ∧
    p.busack.port = .dataHi ∧ p.m1.port = .dataHi

/-- The domains of the parameters (00_scope.md section 5): R13 of the pin map, `I2C_BASE` in 0..125, a positive
`POLL_LIMIT`, a positive `T_RESET_MIN`. -/
abbrev Params.WellFormed (c : Params) : Prop :=
  c.pins.WellFormed ∧ c.i2cBase ≤ 125 ∧ c.pollLimit ≠ some 0 ∧ 0 < c.tResetMin.num

end Sys2Proof
end

