-- ==== Sys2Proof/Decode.lean ====
section
/-! DEFINITION. The packed command word (R63, R64): its fields, the decoder, total on every word and rejecting by
name (R71), the table of match and mask of R64, and the encoder. The layout is the spec's own numbering (D5);
no byte order is defined for the words, since they are never stored in the target's memory (R63). -/

namespace Sys2Proof

/-! ### The fields of a word (R63) -/

/-- `W[31:28]`, the ordinal of R60. -/
def opField (w : Word) : BitVec 4 := w.extractLsb' 28 4

/-- `W[27]`, the flag. -/
def flagField (w : Word) : BitVec 1 := w.extractLsb' 27 1

/-- `W[26:24]`, reserved. -/
def reservedField (w : Word) : BitVec 3 := w.extractLsb' 24 3

/-- `W[23:8]`, an address or a whole rate. -/
def hwField (w : Word) : Addr := w.extractLsb' 8 16

/-- `W[7:0]`, a data byte or a bank. -/
def byteField (w : Word) : Byte := w.extractLsb' 0 8

/-! ### Decoding -/

/-- Why a word spells no command (R71). -/
inductive Reject where
  /-- `W[26:24]` is not 0 -/
  | reservedBits
  /-- `W[27]` is set and the command has no flag -/
  | unusedFlag
  /-- `W[23:8]` is not 0 and the command has no address and no rate -/
  | unusedHalfword
  /-- `W[7:0]` is not 0 and the command, or this form of it, has no byte operand -/
  | unusedByte
  /-- `W[23:8]` is 0 in `SLOW_CLOCK` or `AUTOSTEP` -/
  | zeroRate
  deriving DecidableEq, Repr

/-- What the decoder answers. -/
inductive Decoded where
  | command (i : Instr)
  | rejected (why : Reject)
  deriving DecidableEq, Repr

/-- A field a command does not use must be 0 (R63): the first check that fails names the rejection. `noFlag`,
`noHw` and `noByte` say which fields the form does not use. -/
def checkUnused (w : Word) (noFlag noHw noByte : Bool) (i : Instr) : Decoded :=
  if reservedField w ≠ 0#3 then .rejected .reservedBits
  else if noFlag = true ∧ flagField w ≠ 0#1 then .rejected .unusedFlag
  else if noHw = true ∧ hwField w ≠ 0#16 then .rejected .unusedHalfword
  else if noByte = true ∧ byteField w ≠ 0#8 then .rejected .unusedByte
  else .command i

/-- A form whose halfword is a rate: a rate field of 0 is reserved (R71). -/
def checkRate (w : Word) (i : Quantity → Instr) : Decoded :=
  match checkUnused w true false true (i ((hwField w).toNat : Quantity)) with
  | .rejected r => .rejected r
  | .command c => if hwField w = 0#16 then .rejected .zeroRate else .command c

/-- The decoder of the packed form (R63, R64, R71). -/
def decode (w : Word) : Decoded :=
  match (opField w).toNat with
  | 0 => checkUnused w true true true .reset
  | 1 =>
    if flagField w = 1#1 then checkUnused w false true false (.takeBusBank (byteField w).toNat)
    else checkUnused w false true true .takeBus
  | 2 => checkUnused w false true true (.releaseBus (flagField w == 1#1))
  | 3 => checkUnused w true false true (.memRead (hwField w).toNat)
  | 4 => checkUnused w true false false (.memWrite (hwField w).toNat (byteField w).toNat)
  | 5 => checkUnused w true false true (.ioRead (hwField w).toNat)
  | 6 => checkUnused w true false false (.ioWrite (hwField w).toNat (byteField w).toNat)
  | 7 => checkUnused w true true true .normalClock
  | 8 => checkRate w .slowClock
  | 9 => checkUnused w true true true .singlestepOn
  | 10 => checkUnused w true true true .singlestepOff
  | 11 => checkRate w .autostep
  | 12 => checkUnused w true true true .stepWait
  | 13 => checkUnused w true true true .m1ReleaseWait
  | 14 => checkUnused w true false true (.latchAddress (hwField w).toNat)
  | _ => checkUnused w true true false (.bankSelect (byteField w).toNat)

/-- The instruction the decoder reads from an instruction whose bits are `w`, numbered as the table numbers them.
Every row has one word of 32 bits and a bit above `nbits` is 0, so `nbits` decides nothing. -/
def decodeTableWord (_nbits w : Nat) : Option Instr :=
  if w < 2 ^ 32 then
    match decode (BitVec.ofNat 32 w) with
    | .command i => some i
    | .rejected _ => none
  else none

/-! ### The table of R64 -/

/-- The ordinal of a command (R60). -/
def ordinal : Instr → Nat
  | .reset => 0
  | .takeBus | .takeBusBank _ => 1
  | .releaseBus _ => 2
  | .memRead _ => 3
  | .memWrite _ _ => 4
  | .ioRead _ => 5
  | .ioWrite _ _ => 6
  | .normalClock => 7
  | .slowClock _ => 8
  | .singlestepOn => 9
  | .singlestepOff => 10
  | .autostep _ => 11
  | .stepWait => 12
  | .m1ReleaseWait => 13
  | .latchAddress _ => 14
  | .bankSelect _ => 15

/-- The match of a command's row of R64. -/
def rowMatch : Instr → Word
  | .reset => 0x00000000#32
  | .takeBus => 0x10000000#32
  | .takeBusBank _ => 0x18000000#32
  | .releaseBus _ => 0x20000000#32
  | .memRead _ => 0x30000000#32
  | .memWrite _ _ => 0x40000000#32
  | .ioRead _ => 0x50000000#32
  | .ioWrite _ _ => 0x60000000#32
  | .normalClock => 0x70000000#32
  | .slowClock _ => 0x80000000#32
  | .singlestepOn => 0x90000000#32
  | .singlestepOff => 0xA0000000#32
  | .autostep _ => 0xB0000000#32
  | .stepWait => 0xC0000000#32
  | .m1ReleaseWait => 0xD0000000#32
  | .latchAddress _ => 0xE0000000#32
  | .bankSelect _ => 0xF0000000#32

/-- The mask of a command's row of R64. -/
def rowMask : Instr → Word
  | .takeBusBank _ | .bankSelect _ => 0xFFFFFF00#32
  | .releaseBus _ => 0xF7FFFFFF#32
  | .memRead _ | .ioRead _ | .slowClock _ | .autostep _ | .latchAddress _ => 0xFF0000FF#32
  | .memWrite _ _ | .ioWrite _ _ => 0xFF000000#32
  | .reset | .takeBus | .normalClock | .singlestepOn | .singlestepOff | .stepWait | .m1ReleaseWait =>
    0xFFFFFFFF#32

/-! ### Encoding -/

/-- The word with the given fields, the reserved field 0 (R63). -/
def pack (op : BitVec 4) (f : BitVec 1) (hw : Addr) (b : Byte) : Word := op ++ (f ++ (0#3 ++ (hw ++ b)))

/-- `hw` of a whole rate (R63). -/
def rateField (r : Quantity) : Addr := BitVec.ofNat 16 r.num.toNat

/-- The command word of a well-formed command that has a packed form; of an operand that does not fit its
field, the low bits. -/
def encode : Instr → Word
  | .reset => pack 0 0 0 0
  | .takeBus => pack 1 0 0 0
  | .takeBusBank b => pack 1 1 0 (BitVec.ofNat 8 b)
  | .releaseBus r => pack 2 (BitVec.ofBool r) 0 0
  | .memRead a => pack 3 0 (BitVec.ofNat 16 a) 0
  | .memWrite a d => pack 4 0 (BitVec.ofNat 16 a) (BitVec.ofNat 8 d)
  | .ioRead a => pack 5 0 (BitVec.ofNat 16 a) 0
  | .ioWrite a d => pack 6 0 (BitVec.ofNat 16 a) (BitVec.ofNat 8 d)
  | .normalClock => pack 7 0 0 0
  | .slowClock r => pack 8 0 (rateField r) 0
  | .singlestepOn => pack 9 0 0 0
  | .singlestepOff => pack 10 0 0 0
  | .autostep r => pack 11 0 (rateField r) 0
  | .stepWait => pack 12 0 0 0
  | .m1ReleaseWait => pack 13 0 0 0
  | .latchAddress a => pack 14 0 (BitVec.ofNat 16 a) 0
  | .bankSelect b => pack 15 0 0 (BitVec.ofNat 8 b)

end Sys2Proof
end

