-- ==== Sys2Proof/Machine/State.lean ====
section
/-! DEFINITION. The state of the block (10_state.md), of the target board as far as the spec speaks of it
(20_memory.md), and of what the outside world still has to say (the script of the environment and the caller's
requests); the faults and refusals; the state after reset. All of it is plain data. -/

namespace Sys2Proof.Machine

/-! ### Names of the controller's state -/

/-- `own` (R21). -/
inductive BusOwnership where
  | released | acquired
  deriving DecidableEq, Repr

/-- `clock_mode` (R27). -/
inductive ClockMode where
  | hardwareFree
  | hostSlow (rate : Quantity)
  | singleStep
  deriving DecidableEq, Repr

/-- `arm` (R28). -/
inductive StepArm where
  | disarmed | armed
  deriving DecidableEq, Repr

/-- The logical state of a signal that the controller can drive: `line[s]` (R15). -/
inductive Line where
  | asserted | deasserted | floating
  deriving DecidableEq, Repr

/-- The four busy-waits (R98). -/
inductive Wait where
  | ackWait | returnWait | flagWait | levelWait
  deriving DecidableEq, Repr

/-- The three writable interrupt-on-change registers (R23): `IOC_EN`, `IOC_DEF`, `IOC_CMP`. -/
inductive IocField where
  | en | dflt | cmp
  deriving DecidableEq, Repr

/-- The operation that a position belongs to (R60), without its operands; `showInt` is the `showint` command,
which samples INT outside every operation (R173). -/
inductive Op where
  | reset | takeBus | releaseBus | memRead | memWrite | ioRead | ioWrite | normalClock | slowClock
  | singlestepOn | singlestepOff | autostep | stepWait | m1ReleaseWait | latchAddress | bankSelect | showInt
  deriving DecidableEq, Repr

/-- A position: the operation and the numbered line of its pseudocode (R26); `part` is 0 for a line without
letters and 1, 2, 3, … for its parts a, b, c, …. -/
structure Pos where
  op : Op
  step : Nat
  part : Nat
  deriving DecidableEq, Repr

/-- The sequencer position `seq` (R26): idle, or the operation in progress and the index of its next line in that
operation's program, in which the lines of the operations it runs stand in place. -/
inductive Seq where
  | idle
  | running (op : Instr) (next : Nat)
  deriving DecidableEq, Repr

/-! ### Primitives, events, faults, refusals -/

/-- The primitives that are register accesses (R7). -/
inductive Prim where
  | assert (s : Signal)
  | deassert (s : Signal)
  | drive (g : Group)
  | float (g : Group)
  | latch (p : Port) (v : Byte)
  | samplePort (p : Port)
  | sample (s : Signal)
  | clkOut (high : Bool)
  | iocConfig (s : Signal) (f : IocField) (v : Bool)
  | iocFlag (s : Signal)
  deriving DecidableEq, Repr

/-- The events of the trace (R7). A sampled signal is recorded as asserted (`true`) or de-asserted. -/
inductive Event where
  | assert (s : Signal)
  | deassert (s : Signal)
  | drive (g : Group)
  | float (g : Group)
  | latch (p : Port) (v : Byte)
  | sample (p : Port) (v : Byte)
  | sampleSig (s : Signal) (asserted : Bool)
  | clk (high : Bool)
  | ioc (s : Signal) (f : IocField) (v : Bool)
  | flag (s : Signal) (latched : Bool)
  | sleep (d : Quantity) (cutShort : Bool)
  deriving DecidableEq, Repr

/-- The faults of R9 and R180. No step ends in `Outcome.fault`: the spec gives every fault an effect on the state
(`fault` is set, R100's cleanup or a scoped exit runs, the lines stay), so raising one leads to a next state whose
`fault` and `raised` fields hold it (assumption 5). -/
inductive Fault where
  /-- `Timeout(which)`: raised by a poll after `POLL_LIMIT` failed samples (R98, R182). As the spec says: safe. -/
  | timeout (which : Wait)
  /-- `TransportAbort(prim)` at a position: raised by a register access that the transport fails (R184).
  As the spec says: safe. -/
  | transportAbort (prim : Prim) (pos : Pos)
  deriving DecidableEq, Repr

/-- The operand names of `Refused(InvalidArgument)` (R61, R180). -/
inductive OperandName where
  | addr | data | bank | rate
  deriving DecidableEq, Repr

/-- Why a command has no step (R9, R180). -/
inductive Refusal where
  /-- raised by `exec` for an instruction that has no meaning yet; no arm answers it. Safe. -/
  | notModelled (mnemonic : String)
  /-- `Refused(InvalidArgument)`: an operand outside its domain, before any primitive (R70, R183). Raised by every
  operation with an operand. As the spec says: safe. -/
  | invalidArgument (operand : OperandName) (value : Quantity)
  /-- `Refused(WrongState)`: the operation is not defined in this state (R72). Raised by the operations R72 lists.
  As the spec says: safe. -/
  | wrongState (op : Op) (own : BusOwnership) (mode : ClockMode) (arm : StepArm)
  /-- `Refused(ReservedWord)`: a word that matches no row of R64 (R71). Raised by `step`. As the spec says: safe. -/
  | reservedWord (w : Word) (why : Reject)
  /-- A new operation starts only when `seq` is idle (R26). Raised by a meaning that is asked for in the middle of
  another operation, which `step` never does. Safe. -/
  | sequencerBusy (op : Op)
  deriving DecidableEq, Repr

/-! ### Registers -/

/-- One 8-bit register for each of the six ports (R11, R12). -/
structure Ports where
  dataLo : Byte
  dataHi : Byte
  addrHi : Byte
  addrLo : Byte
  ctrlA : Byte
  ctrlB : Byte
  deriving DecidableEq, Repr

/-- The interrupt-on-change registers of the port that carries M1 (R23). -/
structure Ioc where
  en : Byte
  dflt : Byte
  cmp : Byte
  flag : Byte
  deriving DecidableEq, Repr

/-! ### The target -/

/-- The target's memory cells as (cell, byte) pairs in rising order of cells. A cell that is not listed has had no
write; it reads as its power-on byte, a free value (assumption 3). -/
abbrev Memory := List Host.Cell

/-- One access that the target's IO devices have seen. `TargetIo` is the list of them: what a device does is a
function of that list that the spec does not constrain (R49). -/
inductive IoAccess where
  | read (addr : Addr)
  | write (addr : Addr) (data : Byte)
  deriving DecidableEq, Repr

/-- What is known of the target's processor state (R52). -/
inductive TargetCpu where
  /-- its own: nothing is known -/
  | unspecified
  /-- it has been reset by a pulse of at least `T_RESET_MIN` and has begun this many fetches since -/
  | sinceReset (fetches : Nat)
  deriving DecidableEq, Repr

/-- The target's side: `target_owns_bus`, the wires it drives, `TargetMem`, `TargetIo`, `bank`, its processor
(R10, R29, R44 to R52). BUSACK has no field of its own: R44 makes it a function of `ownsBus`. -/
structure Target where
  ownsBus : Bool
  /-- M1 is asserted -/
  m1 : Bool
  /-- INT is asserted -/
  int : Bool
  /-- CLK is high -/
  clk : Bool
  mem : Memory
  io : List IoAccess
  bank : Byte
  cpu : TargetCpu
  /-- when RESET was asserted, while it is asserted -/
  resetSince : Option Quantity
  /-- a host-driven or switched clock has given the target an edge that it has not used yet (R130) -/
  edge : Bool
  deriving DecidableEq, Repr

/-! ### The outside world -/

/-- The user's events (R149). -/
inductive UserEvent where
  | advance | quit
  deriving DecidableEq, Repr

/-- What the target, the canceller, the user and time may do between two primitives (R4, R7). An act that the
target's contract does not allow at that moment does not happen (`applyAct`). -/
inductive EnvAct where
  /-- the target floats its bus: `target_owns_bus` becomes false (R45 a) -/
  | grant
  /-- the target takes its bus back (R45 b) -/
  | resume
  /-- the target begins an instruction fetch (R59) -/
  | m1Assert
  /-- the target's fetch completes (R59) -/
  | m1Deassert
  /-- the target's program writes a byte of memory (R46) -/
  | memWrite (a : Addr) (v : Byte)
  /-- the target's program accesses an IO device (R46) -/
  | io (x : IoAccess)
  /-- the target's program, or its reset, changes the bank register (R46, P2) -/
  | bank (b : Byte)
  /-- INT changes (R29) -/
  | int (asserted : Bool)
  /-- CLK changes (R29) -/
  | clk (high : Bool)
  /-- a cancellation is raised (R192) -/
  | cancel
  /-- the user presses a key (R149) -/
  | user (e : UserEvent)
  /-- time passes (R8) -/
  | elapse (d : Quantity)
  deriving DecidableEq, Repr

/-- What befalls the register access, or the sleep, that comes next. -/
inductive Fate where
  | ok
  /-- the transport fails the access after this many of its register writes have taken effect (R184) -/
  | abort (applied : Nat)
  /-- the whole controller is killed (R192, U10) -/
  | kill
  deriving DecidableEq, Repr

/-- One boundary between two primitives: what the environment does there, and the fate of what follows. -/
structure Slot where
  acts : List EnvAct
  fate : Fate
  deriving DecidableEq, Repr

/-! ### The caller -/

/-- The options that every command with bus cycles has (R160, R174). -/
structure FrameOptions where
  bank : Option Nat
  resetOnRelease : Bool
  skipRelease : Bool
  deriving DecidableEq, Repr

/-- The commands of the command surface, the pseudo-instructions of 45_host_commands.md (R75). -/
inductive HostCommand where
  | reset
  | memdump (base count : Nat) (o : FrameOptions)
  | savehex (base count : Nat) (o : FrameOptions)
  | loadhex (base : Nat) (bytes : List Byte) (o : FrameOptions)
  | peek (addr : Nat) (o : FrameOptions)
  | poke (addr value : Nat) (o : FrameOptions)
  | ioread (addr : Nat) (o : FrameOptions)
  | iowrite (addr value : Nat) (o : FrameOptions)
  | iowatch (addr : Nat) (bank : Option Nat)
  | slowclock (rate : Quantity)
  | autostep (rate : Quantity)
  | singlestep
  | showint
  deriving DecidableEq, Repr

/-- One step of a command's expansion: an operation, or the printing of the byte that the last read returned. -/
inductive CommandStep where
  | op (i : Instr)
  | print
  deriving DecidableEq, Repr

/-- What remains of a command in progress. -/
inductive CommandRest where
  /-- a straight-line expansion; a fault of one of its operations ends it (R160, R184) -/
  | steps (l : List CommandStep)
  /-- `autostep` after its `SINGLESTEP_ON`, in its scope (R170, R191) -/
  | autostepArmed (rate : Quantity)
  /-- `autostep` after its `AUTOSTEP`, leaving its scope (R191, R193) -/
  | autostepEnd
  /-- `singlestep` inside its scope, waiting for the user (R171) -/
  | interactive
  /-- `iowatch` before its next read; the byte it printed last (R169) -/
  | watch (addr : Nat) (last : Option Byte)
  /-- `iowatch` after a read -/
  | watched (addr : Nat) (last : Option Byte)
  /-- `showint` before its next sample; the level it printed last (R173) -/
  | showInt (last : Option Bool)
  /-- the handler of a command's scope, one `SINGLESTEP_OFF` (R191, R193); after it nothing, or the end of the run as the
  refusal for which the scope was left -/
  | handler (refusal : Option Refusal)
  deriving DecidableEq, Repr

/-- What the caller asks for next: a packed word, an abstract record (R62), or a command of the command surface;
`rest` is what remains of a command that has begun. -/
inductive Request where
  | word (w : Word)
  | record (i : Instr)
  | command (c : HostCommand)
  | rest (r : CommandRest)
  deriving DecidableEq, Repr

/-- What a command prints, unformatted (formatting is out of scope, R3). -/
inductive Printed where
  | byte (v : Byte)
  | int (asserted : Bool)
  deriving DecidableEq, Repr

/-! ### The state -/

/-- The whole state (R10), the parameters and the model's own fields (INVENTORY.md, State). -/
structure State where
  /-- the parameters of 00_scope.md section 5; no step writes them -/
  cfg : Params
  own : BusOwnership
  clockMode : ClockMode
  arm : StepArm
  seq : Seq
  /-- `n` of `PollUntil`: the failed samples of the poll in progress (R98) -/
  polls : Nat
  /-- the start of the current `AUTOSTEP` iteration (R32) -/
  t0 : Quantity
  fault : Option Fault
  /-- the fault that the last operation, or the invocation in progress, ended with; `fault` is sticky, this is not -/
  raised : Option Fault
  /-- a kill has ended an invocation (R192, U10) -/
  killed : Bool
  /-- the byte that the last read operation sampled, stored at its step 4 (R112, R114). What a read returns that aborts or
  is killed in step 5, after the sample, the spec does not say: the byte stands here (DESIGN CHOICE, assumption 34) -/
  result : Option Byte
  /-- `DIR[p]` (R12) -/
  dir : Ports
  /-- `OUT[p]` (R12) -/
  out : Ports
  ioc : Ioc
  target : Target
  /-- the events so far, the oldest first (R6) -/
  trace : List Event
  /-- the controller's monotonic clock, `Now()` (R196) -/
  now : Quantity
  /-- how many free bytes have been drawn -/
  draws : Nat
  /-- a cancellation is pending (R188) -/
  cancel : Bool
  /-- the user's events that no command has read yet: R188 leaves their pending state to the keyboard; the model queues one
  that is raised at any time, and the next `singlestep` reads it (DESIGN CHOICE, assumption 39) -/
  users : List UserEvent
  /-- what the environment does at the boundaries to come; none listed is an environment that does nothing -/
  env : List Slot
  /-- what the caller asks for next -/
  requests : List Request
  /-- what the commands have printed -/
  console : List Printed
  deriving DecidableEq, Repr

/-- The parameters of the state after reset: the defaults of 00_scope.md section 5; where a parameter is OPEN, a
value that assumption 6 names. -/
def defaultParams : Params where
  i2cBase := 0
  pins :=
    { m1 := ⟨.dataHi, 0⟩, clk := ⟨.dataHi, 1⟩, int := ⟨.dataHi, 2⟩, mreq := ⟨.dataHi, 3⟩, wr := ⟨.dataHi, 4⟩,
      rd := ⟨.dataHi, 5⟩, iorq := ⟨.dataHi, 6⟩, busack := ⟨.dataHi, 7⟩, busreq := ⟨.ctrlA, 0⟩, reset := ⟨.ctrlA, 1⟩,
      clken := ⟨.ctrlA, 2⟩, clkout := ⟨.ctrlA, 3⟩ }
  busreqLevel := false
  m1Level := false
  intLevel := false
  clkenLevel := false
  resetLevel := false
  mreqLevel := false
  wrLevel := false
  rdLevel := false
  iorqLevel := false
  busackGrantLevel := true
  dirInputBit := true
  addrPortOrder := .hiFirst
  bankSelectPort := 0x0000#16
  bankMap := [{ bank := none, lo := 0x0000#16, hi := 0xFFFF#16, base := 0, writable := true }]
  tResetMin := 1 / 1000
  pollLimit := none
  transportMayFail := true
  clockRequiresAcquired := false

/-- The machine right after reset: `INIT` (R210 to R214). What the spec leaves unspecified there has the value
that assumption 7 names. -/
def State.reset : State where
  cfg := defaultParams
  own := .released
  clockMode := .hardwareFree
  arm := .disarmed
  seq := .idle
  polls := 0
  t0 := 0
  fault := none
  raised := none
  killed := false
  result := none
  dir := { dataLo := 0xFF#8, dataHi := 0xFF#8, addrHi := 0xFF#8, addrLo := 0xFF#8, ctrlA := 0xF0#8, ctrlB := 0xFF#8 }
  out := { dataLo := 0x00#8, dataHi := 0x00#8, addrHi := 0x00#8, addrLo := 0x00#8, ctrlA := 0x03#8, ctrlB := 0x00#8 }
  ioc := { en := 0x00#8, dflt := 0x00#8, cmp := 0x00#8, flag := 0x00#8 }
  target :=
    { ownsBus := true, m1 := false, int := false, clk := false, mem := [], io := [], bank := 0x00#8,
      cpu := .unspecified, resetSince := none, edge := false }
  trace := []
  now := 0
  draws := 0
  cancel := false
  users := []
  env := []
  requests := []
  console := []

end Sys2Proof.Machine
end

