-- ==== Sys2Proof/Machine/Operands.lean ====
section
/-! DEFINITION. Operand assembly: the byte reversal of the AddressEncoder (R80), the split of an address (R42, R65),
data bytes (R66), the arithmetic from a rate to durations (R67, R148), and the operand domains (R61, R70). -/

namespace Sys2Proof.Machine

/-- `REV8`, the byte bit-reversal: bit `i` of the result is bit `7 - i` of the operand (R80). -/
def rev8 (b : Byte) : Byte :=
  BitVec.ofBoolListBE [b.getLsbD 0, b.getLsbD 1, b.getLsbD 2, b.getLsbD 3, b.getLsbD 4, b.getLsbD 5, b.getLsbD 6,
    b.getLsbD 7]

/-- An address operand as 16 bits (R65); the domain check comes before (R70). -/
def addrOf (a : Nat) : Addr := BitVec.ofNat 16 a

/-- A data or bank operand as 8 bits, unchanged (R66); the domain check comes before (R70). -/
def byteOf (d : Nat) : Byte := BitVec.ofNat 8 d

/-- `addr[15:8]` (R42). -/
def hiByte (a : Addr) : Byte := a.extractLsb' 8 8

/-- `addr[7:0]` (R42). -/
def loByte (a : Addr) : Byte := a.extractLsb' 0 8

/-- `1 / (2 * rate)`, the time between two edges of `SLOW_CLOCK` (R67). -/
def halfPeriod (rate : Quantity) : Quantity := 1 / (2 * rate)

/-- `1 / rate`, the least time of an iteration of `AUTOSTEP` (R67). -/
def stepPeriod (rate : Quantity) : Quantity := 1 / rate

/-- `max(0, T - (Now() - t0))` (R148). -/
def paceTime (period now t0 : Quantity) : Quantity :=
  if 0 < period - (now - t0) then period - (now - t0) else 0

/-- The first operand outside its domain, with its value (R61, R70, R183); a rate is positive when its numerator
is. -/
def badOperand : Instr → Option (OperandName × Quantity)
  | .takeBusBank b | .bankSelect b => if b < 256 then none else some (.bank, (b : Quantity))
  | .memRead a | .ioRead a | .latchAddress a => if a < 65536 then none else some (.addr, (a : Quantity))
  | .memWrite a d | .ioWrite a d =>
    if a < 65536 then if d < 256 then none else some (.data, (d : Quantity)) else some (.addr, (a : Quantity))
  | .slowClock r | .autostep r => if 0 < r.num then none else some (.rate, r)
  | .reset | .takeBus | .releaseBus _ | .normalClock | .singlestepOn | .singlestepOff | .stepWait
  | .m1ReleaseWait => none

/-- The operation of a command (R60). -/
def opOf : Instr → Op
  | .reset => .reset
  | .takeBus | .takeBusBank _ => .takeBus
  | .releaseBus _ => .releaseBus
  | .memRead _ => .memRead
  | .memWrite _ _ => .memWrite
  | .ioRead _ => .ioRead
  | .ioWrite _ _ => .ioWrite
  | .normalClock => .normalClock
  | .slowClock _ => .slowClock
  | .singlestepOn => .singlestepOn
  | .singlestepOff => .singlestepOff
  | .autostep _ => .autostep
  | .stepWait => .stepWait
  | .m1ReleaseWait => .m1ReleaseWait
  | .latchAddress _ => .latchAddress
  | .bankSelect _ => .bankSelect

end Sys2Proof.Machine
end

