-- ==== Sys2Proof/Machine/Ops.lean ====
section
/-! DEFINITION. The named operations over the state: the target's memory; pins, lines and wires; the target's
contract; the primitives; and the sequencer's ways out of an operation (raising a fault, entering a scoped
exit's handler, being killed, returning). -/

namespace Sys2Proof.Machine

/-! ### The target's memory (R47, R48, R50) -/

/-- The byte that a write has left in cell `a`; `none` where no write has been. -/
def Memory.read : Memory → Nat → Option Byte
  | [], _ => none
  | (k, v) :: r, a => if k = a then some v else Memory.read r a

/-- Write a cell, keeping the cells in rising order. -/
def Memory.write : Memory → Nat → Byte → Memory
  | [], a, v => [(a, v)]
  | (k, w) :: r, a, v =>
    if a < k then (a, v) :: (k, w) :: r else if a = k then (a, v) :: r else (k, w) :: Memory.write r a v

/-- The canonical form: the cells stand in strictly rising order. -/
def Memory.wf : Memory → Bool
  | [] => true
  | [_] => true
  | (k, _) :: (j, w) :: r => k < j && Memory.wf ((j, w) :: r)

/-- What the cell holds: the byte written last, else its power-on byte (a free value, assumption 3). -/
def Memory.value (m : Memory) (a : Nat) : Byte := (m.read a).getD (Config.powerOnByte a)

/-- `BANK_MAP`: the memory cell that address `a` reaches with the bank register at `b`, and whether it can be
written; `none` where no device answers (R47, R50, R51). -/
def bankLookup : List Region → Byte → Addr → Option (Nat × Bool)
  | [], _, _ => none
  | r :: rest, b, a =>
    if (r.bank = none ∨ r.bank = some b) ∧ r.lo ≤ a ∧ a ≤ r.hi then
      some (r.base + (a.toNat - r.lo.toNat), r.writable)
    else bankLookup rest b a

/-- The memory cell that address `a` reaches now. -/
def cellAt (s : State) (a : Addr) : Option (Nat × Bool) := bankLookup s.cfg.bankMap s.target.bank a

/-- The write of one byte to the memory space by the master of the bus: read-only and absent memory ignore it
(R47). -/
def storeByte (a : Addr) (v : Byte) (s : State) : State :=
  match cellAt s a with
  | some (c, true) => { s with target := { s.target with mem := s.target.mem.write c v } }
  | _ => s

/-- An access to the IO space by the master of the bus: the devices see it, and a write to `BANK_SELECT_PORT` sets
the bank register (R49, R50). -/
def ioAccess (x : IoAccess) (s : State) : State :=
  match x with
  | .read a => { s with target := { s.target with io := s.target.io ++ [.read a] } }
  | .write a v =>
    { s with target :=
        { s.target with
          io := s.target.io ++ [.write a v]
          bank := if a = s.cfg.bankSelectPort then v else s.target.bank } }

/-! ### Ports and pins (R11 to R13, R19) -/

/-- One port's register. -/
def Ports.get (r : Ports) : Port → Byte
  | .dataLo => r.dataLo
  | .dataHi => r.dataHi
  | .addrHi => r.addrHi
  | .addrLo => r.addrLo
  | .ctrlA => r.ctrlA
  | .ctrlB => r.ctrlB

/-- Write one port's register. -/
def Ports.set (r : Ports) (p : Port) (v : Byte) : Ports :=
  match p with
  | .dataLo => { r with dataLo := v }
  | .dataHi => { r with dataHi := v }
  | .addrHi => { r with addrHi := v }
  | .addrLo => { r with addrLo := v }
  | .ctrlA => { r with ctrlA := v }
  | .ctrlB => { r with ctrlB := v }

/-- Bit `i` of a register or a byte. -/
def bitAt (b : Byte) (i : Fin 8) : Bool := b.getLsbD i.val

/-- `b` with bit `i` at `l`, the other seven bits kept. -/
def setBit (b : Byte) (i : Fin 8) (l : Bool) : Byte :=
  if l then b ||| (1#8 <<< i.val) else b &&& ~~~(1#8 <<< i.val)

/-- The bit of a pin in a register of its port. -/
def getPin (r : Ports) (q : Pin) : Bool := bitAt (r.get q.port) q.bit

/-- Write the bit of a pin, keeping every other bit (R76). -/
def setPin (r : Ports) (q : Pin) (l : Bool) : Ports := r.set q.port (setBit (r.get q.port) q.bit l)

/-- The four strobes in the order of R19. -/
def strobes : List Signal := [.mreq, .wr, .rd, .iorq]

/-- The signals that the target or its board drives at all times (R14). -/
def targetSignals : List Signal := [.m1, .clk, .int, .busack]

/-- The chip of a port (R11). -/
def chipOf : Port → Chip
  | .dataLo | .dataHi => .data
  | .ctrlA | .ctrlB => .control
  | .addrHi | .addrLo => .address

/-- The transport address of a chip (R204). -/
def transportAddress (c : Params) : Chip → Nat
  | .data => c.i2cBase
  | .control => c.i2cBase + 1
  | .address => c.i2cBase + 2

/-- `LEVEL_ASSERTED(s)` (R69, D2): a parameter of each signal; for BUSACK the level that is not `BUSACK_GRANT_LEVEL`
(R44). CLK and CLKOUT are clocks and have no assertion sense. -/
def assertedLevel (c : Params) : Signal → Bool
  | .reset => c.resetLevel
  | .mreq => c.mreqLevel
  | .wr => c.wrLevel
  | .rd => c.rdLevel
  | .iorq => c.iorqLevel
  | .busreq => c.busreqLevel
  | .m1 => c.m1Level
  | .int => c.intLevel
  | .clken => c.clkenLevel
  | .busack => !c.busackGrantLevel
  | .clk | .clkout => true

/-- The level of a signal that is asserted, or not. -/
def levelOf (c : Params) (g : Signal) (asserted : Bool) : Bool :=
  if asserted then assertedLevel c g else !assertedLevel c g

/-- A direction register that makes all eight pins outputs, or inputs (R12, R76). -/
def allPins (c : Params) (output : Bool) : Byte := if output = c.dirInputBit then 0x00#8 else 0xFF#8

/-- The direction bit of an output, or of an input (R12). -/
def dirBit (c : Params) (output : Bool) : Bool := if output then !c.dirInputBit else c.dirInputBit

/-- Whether a pin is an output (R12). -/
def isOutput (s : State) (q : Pin) : Bool := getPin s.dir q != s.cfg.dirInputBit

/-- `line[s]` of a signal that the controller can drive (R15). -/
def line (s : State) (g : Signal) : Line :=
  if isOutput s (s.cfg.pins.pin g) then
    if getPin s.out (s.cfg.pins.pin g) = assertedLevel s.cfg g then .asserted else .deasserted
  else .floating

/-- Whether the controller asserts a signal. -/
def asserts (s : State) (g : Signal) : Bool := line s g == .asserted

/-- `clkout`: CLKOUT is high (R16). -/
def clkoutHigh (s : State) : Bool := getPin s.out s.cfg.pins.clkout

/-! ### Wires (R12, R17, R18, R20, R29) -/

/-- The level on the wire of a signal that the target drives (R29, R44, R69). -/
def targetLevel (s : State) : Signal → Bool
  | .m1 => levelOf s.cfg .m1 s.target.m1
  | .int => levelOf s.cfg .int s.target.int
  | .busack => levelOf s.cfg .busack s.target.ownsBus
  | .clk => s.target.clk
  | _ => false

/-- Both MREQ and WR are asserted: a memory device takes the byte (R47). -/
def memWriteWindow (s : State) : Bool := asserts s .mreq && asserts s .wr

/-- Both MREQ and RD are asserted: a memory device drives the data bus (R48). -/
def memReadWindow (s : State) : Bool := asserts s .mreq && asserts s .rd

/-- Both IORQ and WR are asserted (R49). -/
def ioWriteWindow (s : State) : Bool := asserts s .iorq && asserts s .wr

/-- Both IORQ and RD are asserted (R49). -/
def ioReadWindow (s : State) : Bool := asserts s .iorq && asserts s .rd

/-- The byte whose bit `i` is `f i`. -/
def byteOfBits (f : Fin 8 → Bool) : Byte :=
  BitVec.ofBoolListLE [f 0, f 1, f 2, f 3, f 4, f 5, f 6, f 7]

/-- Bit `i` of the `n`-th free byte. -/
def freeBit (n : Nat) (i : Fin 8) : Bool := bitAt (Config.freeByte n) i

/-- The wires of an address port: the latch where the controller alone drives, free bits elsewhere (R17, R20,
R51). -/
def addrPortLevels (s : State) (p : Port) (n : Nat) : Byte :=
  byteOfBits fun i =>
    if isOutput s ⟨p, i⟩ && !s.target.ownsBus then getPin s.out ⟨p, i⟩ else freeBit n i

/-- The address on A15..A0 (R17). -/
def busAddr (s : State) : Addr :=
  rev8 (addrPortLevels s .addrHi (s.draws + 1)) ++ rev8 (addrPortLevels s .addrLo (s.draws + 2))

/-- The byte that a memory device drives on the data bus with the bus Acquired, if one does (R48). R48 says so with the
controller's DATA group floating, and does not say what the device does in a read window while DATA is still driving, as an
aborted or killed write may leave it: here it drives all the same, and the wires are in contention (DESIGN CHOICE,
assumption 44). -/
def memoryDrives (s : State) : Option Byte :=
  if s.own == .acquired && memReadWindow s then
    match cellAt s (busAddr s) with
    | some (c, _) => some (s.target.mem.value c)
    | none => none
  else none

/-- What a wire gets from the target's side (R14, R45, R48). -/
inductive TargetWire where
  /-- the target drives nothing on it -/
  | released
  /-- the target, or a device of its board, may drive it, at a level the spec does not give -/
  | mayDrive
  /-- the target drives this level -/
  | drives (level : Bool)
  deriving DecidableEq, Repr

/-- A device may drive the data bus at a level the spec does not give: an IO device in its read window (R49, U5), or a
memory device in a read window while Released, where R48 gives no byte (the launch window of R226; assumption 19). -/
def deviceMayDrive (s : State) : Bool := ioReadWindow s || (s.own == .released && memReadWindow s)

/-- The target's side of a pin's wire: the address and data buses and the strobes while it owns the bus; M1, CLK, INT
and BUSACK always; the data bus while a memory or an IO device answers (R14, R45, R48, R49). -/
def targetWire (s : State) (q : Pin) : TargetWire :=
  match q.port with
  | .dataLo =>
    if s.target.ownsBus || deviceMayDrive s then .mayDrive
    else match memoryDrives s with
      | some v => .drives (bitAt v q.bit)
      | none => .released
  | .addrHi | .addrLo => if s.target.ownsBus then .mayDrive else .released
  | _ =>
    match targetSignals.find? (fun g => s.cfg.pins.pin g == q) with
    | some g => .drives (targetLevel s g)
    | none => if s.target.ownsBus && strobes.any (fun g => s.cfg.pins.pin g == q) then .mayDrive else .released

/-- `contention(wire)`: the controller drives the wire and so does, or may, the target (R20). -/
def contention (s : State) (q : Pin) : Bool := isOutput s q && targetWire s q != .released

/-- The level on a pin's wire (R12): the latch where the controller alone drives, the target's level where it alone
drives one, a free bit where nothing drives (R51), where the target's level is not given, and where both drive (R20,
U6). -/
def pinLevel (s : State) (q : Pin) : Bool :=
  if isOutput s q then
    if targetWire s q = .released then getPin s.out q else freeBit s.draws q.bit
  else match targetWire s q with
    | .drives l => l
    | _ => freeBit s.draws q.bit

/-- `IN[p]`: the live levels of a port's wires (R12). -/
def portIn (s : State) (p : Port) : Byte := byteOfBits fun i => pinLevel s ⟨p, i⟩

/-- The memory device takes the byte that the wires show, at the address they show (R47). -/
def commitByte (s : State) : State :=
  { storeByte (busAddr s) (portIn s .dataLo) s with draws := s.draws + 3 }

/-- With the bus Acquired the condition of R47 holds as long as its window is open: what the wires and the bank map
show now is written. -/
def holdWrite (s : State) : State := if s.own == .acquired && memWriteWindow s then commitByte s else s

/-- What `Sample(s)` returns: asserted when the pin reads `LEVEL_ASSERTED(s)` (R69). -/
def sensed (s : State) (g : Signal) : Bool :=
  pinLevel s (s.cfg.pins.pin g) == assertedLevel s.cfg g

/-- The `IOC_FLAG` bit of a signal. -/
def flagLatched (s : State) (g : Signal) : Bool := bitAt s.ioc.flag (s.cfg.pins.pin g).bit

/-- `target_halted`, in the words of R25: with the latch set while `arm` is Disarmed the target is not halted, and when
`arm` becomes Armed it is, whatever M1 is by then (DESIGN CHOICE, assumption 35). -/
def halted (s : State) : Bool := s.arm == .armed && flagLatched s .m1

/-! ### The target's contract (R44 to R46, R52, R59, R130) -/

/-- The target makes progress: not caught, not in reset, and its clock runs or has just had an edge (R46, R130,
R207). -/
def canRun (s : State) : Bool :=
  !halted s && !asserts s .reset && (asserts s .clken || s.target.edge)

/-- The index of the handler in the program of an operation that opens a scope (R191). -/
def scopeHandler : Instr → Option Nat
  | .slowClock _ => some 6
  | .autostep _ => some 5
  | _ => none

/-- A cancellation can be taken here: inside the scope and before its handler (R192). It is taken at a boundary, and an
`AUTOSTEP` issued while Disarmed has none before its handler: one that is pending then stays pending (DESIGN CHOICE,
assumption 38). -/
def cancellable : Seq → Bool
  | .running i k => match scopeHandler i with
    | some h => k < h
    | none => false
  | .idle => false

/-- The handler of a command's scope is what runs: the `SINGLESTEP_OFF` of `autostep` or `singlestep` (R191). -/
def commandHandler : List Request → Bool
  | .rest (.handler _) :: _ => true
  | _ => false

/-- A handler runs, an operation's own or a command's: a cancellation raised now is ignored (R193). -/
def inHandler (s : State) : Bool :=
  match s.seq with
  | .running i k => match scopeHandler i with
    | some h => h ≤ k
    | none => commandHandler s.requests
  | .idle => false

/-- M1 becomes asserted: the fetch begins, and the change interrupt is latched when it is configured and enabled
(R24, R59). -/
def beginFetch (s : State) : State :=
  let q := s.cfg.pins.m1
  { s with
    target :=
      { s.target with
        m1 := true
        cpu := match s.target.cpu with
          | .sinceReset n => .sinceReset (n + 1)
          | .unspecified => .unspecified }
    ioc := if bitAt s.ioc.en q.bit && bitAt s.ioc.cmp q.bit then { s.ioc with flag := setBit s.ioc.flag q.bit true }
      else s.ioc }

/-- One act of the environment; an act that the contract does not allow now does not happen (R44 to R46, R52, R59,
R193). A user's event is queued whether or not a `singlestep` command runs (DESIGN CHOICE, assumption 39). -/
def applyAct (s : State) : EnvAct → State
  | .grant =>
    if s.target.ownsBus && !s.target.m1 && line s .busreq == .asserted && canRun s then
      { s with target := { s.target with ownsBus := false } }
    else s
  | .resume =>
    if !s.target.ownsBus && line s .busreq == .deasserted && canRun s then
      { s with target := { s.target with ownsBus := true } }
    else s
  | .m1Assert => if s.target.ownsBus && !s.target.m1 && canRun s then beginFetch s else s
  | .m1Deassert =>
    if !halted s && (canRun s || asserts s .reset) then { s with target := { s.target with m1 := false } } else s
  | .memWrite a v => if s.target.ownsBus && canRun s then storeByte a v s else s
  | .io x => if s.target.ownsBus && canRun s then ioAccess x s else s
  | .bank b =>
    if (s.target.ownsBus && canRun s) || asserts s .reset then
      holdWrite { s with target := { s.target with bank := b } }
    else s
  | .int l => { s with target := { s.target with int := l } }
  | .clk l => { s with target := { s.target with clk := l } }
  | .cancel => if inHandler s then s else { s with cancel := true }
  | .user e => { s with users := s.users ++ [e] }
  | .elapse d => if 0 ≤ d.num then { s with now := s.now + d } else s

/-- The acts of a slot in their order. -/
def applyActs (s : State) (l : List EnvAct) : State := l.foldl applyAct s

/-- A clock edge that the target has not used by the end of a boundary is spent (R130). -/
def spendEdge (s : State) : State := { s with target := { s.target with edge := false } }

/-- The fate of the next access: no transport failure where `TRANSPORT_MAY_FAIL` is false (R184). -/
def fateOf (c : Params) : Fate → Fate
  | .abort n => if c.transportMayFail then .abort n else .ok
  | f => f

/-- The boundary between two primitives: the environment acts (R4, R7), and the fate of what follows is known. -/
def boundary (s : State) : State × Fate :=
  match s.env with
  | [] => (spendEdge s, .ok)
  | sl :: rest => (spendEdge (applyActs { s with env := rest } sl.acts), fateOf s.cfg sl.fate)

/-! ### What the board does when a line changes -/

/-- A device acts at a register write: its window opens, or stays open with the bus Acquired, where R47 and R49 give it
what the wires show at any time (assumption 19). -/
def acting (window : State → Bool) (old new : State) : Bool :=
  window new && (new.own == .acquired || !window old)

/-- The memory device takes a byte (R47, R226). -/
def memWriteReact (old new : State) : State := if acting memWriteWindow old new then commitByte new else new

/-- The IO devices see a write (R49); where it sets the bank, an open memory window is held under the new one (R47,
R50). -/
def ioWriteReact (old new : State) : State :=
  if acting ioWriteWindow old new then
    holdWrite { ioAccess (.write (busAddr new) (portIn new .dataLo)) new with draws := new.draws + 3 }
  else new

/-- The IO devices see a read (R49, R57). -/
def ioReadReact (old new : State) : State :=
  if acting ioReadWindow old new then { ioAccess (.read (busAddr new)) new with draws := new.draws + 3 } else new

/-- A reset pulse begins or ends: after at least `T_RESET_MIN`, with the clock running, the target's processor is in
its own reset state; after any other pulse nothing is known of it (R52, R90). The spec does not say what a pulse does to
M1 of a fetch in progress: the model leaves M1 to the environment, and a fetch that began before the pulse's end is not
counted after it. Nor does it say what is known of the processor while RESET is still asserted: the record of before the
pulse stands until RESET is de-asserted (DESIGN CHOICE, assumption 21). -/
def resetReact (old new : State) : State :=
  if asserts new .reset && !asserts old .reset then
    { new with target := { new.target with resetSince := some new.now } }
  else if asserts old .reset && !asserts new .reset then
    { new with target :=
        { new.target with
          resetSince := none
          cpu := match new.target.resetSince with
            | some t => if new.cfg.tResetMin ≤ new.now - t ∧ asserts new .clken = true then .sinceReset 0 else .unspecified
            | none => .unspecified } }
  else new

/-- The target's clock has an edge when CLKOUT changes while CLKEN is de-asserted, and may have one when the
multiplexer switches (R130, U8). -/
def clockReact (old new : State) : State :=
  if line new .clken != line old .clken || (line new .clken == .deasserted && clkoutHigh new != clkoutHigh old) then
    { new with target := { new.target with edge := true } }
  else new

/-- Everything the board does when one register write has changed the lines. Where several windows act at one write the
spec gives no order: the memory is written first, under the bank that was selected before; then the IO devices see the
write, which may set the bank; then they see the read; each uses free bits of its own (DESIGN CHOICE, assumption 19). -/
def react (old new : State) : State :=
  clockReact old (resetReact old (ioReadReact old (ioWriteReact old (memWriteReact old new))))

/-! ### The primitives (R7) -/

/-- One write of an expander register. -/
inductive RegWrite where
  /-- the direction of a whole port -/
  | dirPort (p : Port) (output : Bool)
  /-- the direction of the four strobe pins of their port (R76) -/
  | dirStrobes (output : Bool)
  /-- the latch bit of one pin -/
  | outPin (q : Pin) (l : Bool)
  /-- the latch of a whole port -/
  | outPort (p : Port) (v : Byte)
  /-- one bit of an interrupt-on-change register -/
  | iocBit (f : IocField) (i : Fin 8) (v : Bool)
  deriving DecidableEq, Repr

/-- The two address ports in the order of `ADDR_PORT_ORDER` (R92). -/
def addrPorts (c : Params) : List Port :=
  match c.addrPortOrder with
  | .hiFirst => [.addrHi, .addrLo]
  | .loFirst => [.addrLo, .addrHi]

/-- The register writes that make a group's pins outputs or inputs (R19, R76, R92). R76 speaks of one port that carries
the four strobes; where `PINMAP` spreads them over several, the model still changes all four in one indivisible write
(DESIGN CHOICE, assumption 37). -/
def groupWrites (c : Params) (g : Group) (output : Bool) : List RegWrite :=
  match g with
  | .addr => (addrPorts c).map fun p => .dirPort p output
  | .data => [.dirPort .dataLo output]
  | .strobes => [.dirStrobes output]

/-- The register writes of a primitive, in order; a primitive that reads has none (R7). -/
def writesOf (c : Params) : Prim → List RegWrite
  | .assert g => [.outPin (c.pins.pin g) (assertedLevel c g)]
  | .deassert g => [.outPin (c.pins.pin g) (!assertedLevel c g)]
  | .drive g => groupWrites c g true
  | .float g => groupWrites c g false
  | .latch p v => [.outPort p v]
  | .clkOut l => [.outPin c.pins.clkout l]
  | .iocConfig g f v => [.iocBit f (c.pins.pin g).bit v]
  | .samplePort _ | .sample _ | .iocFlag _ => []

/-- The register after one write. A pin that is disabled as an interrupt source holds no pending interrupt
(R142 step 2). -/
def storeWrite (w : RegWrite) (s : State) : State :=
  match w with
  | .dirPort p o => { s with dir := s.dir.set p (allPins s.cfg o) }
  | .dirStrobes o =>
    { s with dir := strobes.foldl (fun r g => setPin r (s.cfg.pins.pin g) (dirBit s.cfg o)) s.dir }
  | .outPin q l => { s with out := setPin s.out q l }
  | .outPort p v => { s with out := s.out.set p v }
  | .iocBit .cmp i v => { s with ioc := { s.ioc with cmp := setBit s.ioc.cmp i v } }
  | .iocBit .dflt i v => { s with ioc := { s.ioc with dflt := setBit s.ioc.dflt i v } }
  | .iocBit .en i v =>
    { s with ioc :=
        { s.ioc with
          en := setBit s.ioc.en i v
          flag := if v then s.ioc.flag else setBit s.ioc.flag i false } }

/-- One register write and what the board does at it. -/
def applyWrite (s : State) (w : RegWrite) : State := react s (storeWrite w s)

/-- Some register writes in order. -/
def applyWrites (s : State) (l : List RegWrite) : State := l.foldl applyWrite s

/-- A read of a port's live value: it clears the latched interrupts of the port that carries M1 (R24), and the free
values it used are spent. -/
def touchPort (p : Port) (s : State) : State :=
  { s with
    draws := s.draws + 3
    ioc := if p = s.cfg.pins.m1.port then { s.ioc with flag := 0x00#8 } else s.ioc }

/-- The effect of a primitive's access on registers and board. -/
def accessEffect (p : Prim) (s : State) : State :=
  match p with
  | .samplePort q => touchPort q s
  | .sample g => touchPort (s.cfg.pins.pin g).port s
  | .iocFlag _ => s
  | p => applyWrites s (writesOf s.cfg p)

/-- The event of a completed primitive, with the value it sampled (R7). -/
def eventOf (p : Prim) (s : State) : Event :=
  match p with
  | .assert g => .assert g
  | .deassert g => .deassert g
  | .drive g => .drive g
  | .float g => .float g
  | .latch q v => .latch q v
  | .samplePort q => .sample q (portIn s q)
  | .sample g => .sampleSig g (sensed s g)
  | .clkOut l => .clk l
  | .iocConfig g f v => .ioc g f v
  | .iocFlag g => .flag g (flagLatched s g)

/-- Append an event to the trace (R6). -/
def emit (e : Event) (s : State) : State := { s with trace := s.trace ++ [e] }

/-- A primitive that completes: its access, then its event. -/
def perform (p : Prim) (s : State) : State := emit (eventOf p s) (accessEffect p s)

/-- A primitive that the transport fails after `n` of its register accesses have taken effect: no event (R184). -/
def abortEffect (p : Prim) (n : Nat) (s : State) : State :=
  match p with
  | .samplePort _ | .sample _ | .iocFlag _ => if n = 0 then s else accessEffect p s
  | p => applyWrites s ((writesOf s.cfg p).take n)

/-! ### Leaving an operation -/

/-- What remains of a command is dropped: its invocation has ended. -/
def dropRest : List Request → List Request
  | .rest _ :: l => l
  | l => l

/-- RAISING A FAULT, the one shared operation (R9, R100, R184, R191): `fault` is set and the operation ends; first its
scoped exit runs, if it has one and this is not already it. -/
def raiseFault (f : Fault) (s : State) : State :=
  { s with
    fault := some f
    raised := some f
    polls := 0
    seq := match s.seq with
      | .idle => .idle
      | .running i k => match scopeHandler i with
        | some h => if k < h then .running i h else .idle
        | none => .idle }

/-- An operation goes on at line `k`. -/
def jumpTo (k : Nat) (s : State) : State :=
  { s with
    polls := 0
    seq := match s.seq with
      | .idle => .idle
      | .running i _ => .running i k }

/-- TAKING A CANCELLATION (R192): the loop is abandoned and the handler runs. -/
def takeCancel (s : State) : State :=
  { s with
    cancel := false
    polls := 0
    seq := match s.seq with
      | .idle => .idle
      | .running i _ => match scopeHandler i with
        | some h => .running i h
        | none => .idle }

/-- The code of `Hang(which)` (R180): an infinite run, which no state records. -/
def hangCode (_which : Wait) : Nat := 1

/-- The code of a fault (R180). -/
def faultCode : Fault → Nat
  | .timeout _ => 2
  | .transportAbort _ _ => 3

/-- The code of a refusal (R180); the model's own refusals have none. -/
def refusalCode : Refusal → Option Nat
  | .invalidArgument _ _ => some 4
  | .wrongState _ _ _ _ => some 5
  | .reservedWord _ _ => some 6
  | _ => none

/-- An abrupt kill runs no handler: the lines stay as they were (R192, U10). A pending cancellation and queued user events
outlive it (DESIGN CHOICE, assumption 42). -/
def takeKill (s : State) : State :=
  { s with killed := true, polls := 0, seq := .idle, requests := dropRest s.requests }

/-- RETURNING: a handler ends or an operation returns to its caller (R193). -/
def opReturn (s : State) : State := { s with polls := 0, seq := .idle }

/-- One register access in the middle of an operation: the boundary before it, a cancellation if one is taken there,
and the access with its fate. `k` is what the operation does with the state in which the access can be made. A cancellation
that can be taken at the boundary goes before a kill there, which is then discarded (DESIGN CHOICE, assumption 43). -/
def access (p : Prim) (pos : Pos) (k : State → State) (s : State) : State :=
  let b := boundary s
  if cancellable b.1.seq && b.1.cancel then takeCancel b.1
  else match b.2 with
    | .ok => k b.1
    | .abort n => raiseFault (.transportAbort p pos) (abortEffect p n b.1)
    | .kill => takeKill b.1

/-- A boundary with no access after it: the environment acts, and a kill ends the operation or the command. -/
def settle (k : State → State) (s : State) : State :=
  if (boundary s).2 = .kill then takeKill (boundary s).1 else k (boundary s).1

/-- `Sleep(d)` in the middle of an operation (R8, R192): the boundary before it, then the time during it, in which
the environment acts and more than `d` may pass. A cancellation taken inside cuts it short; before the sleep and inside it
a cancellation goes before a kill at the same boundary (DESIGN CHOICE, assumption 43). -/
def sleepFor (d : State → Quantity) (k : State → State) (s : State) : State :=
  let b := boundary s
  if cancellable b.1.seq && b.1.cancel then takeCancel b.1
  else if b.2 = .kill then takeKill b.1
  else
    let c := boundary b.1
    if cancellable c.1.seq && c.1.cancel then takeCancel (emit (.sleep (d b.1) true) c.1)
    else if c.2 = .kill then takeKill c.1
    else k (emit (.sleep (d b.1) false) { c.1 with now := c.1.now + d b.1 })

end Sys2Proof.Machine
end

