-- ==== Sys2Proof/Machine/Flags.lean ====
section
/-! DEFINITION. The flags of R31 (`own`, `clock_mode`, `arm`, the `IOC_FLAG` bit of M1, `fault`): how operations set
them, the preconditions that test them (R72), and the handshake phase they define (R22). This hardware has no
arithmetic condition codes. -/

namespace Sys2Proof.Machine

/-! ### Setting -/

/-- `own <- o` (R93, R97). -/
def setOwn (o : BusOwnership) (s : State) : State := { s with own := o }

/-- `clock_mode <- m` (R27). -/
def setClockMode (m : ClockMode) (s : State) : State := { s with clockMode := m }

/-- `arm <- Armed; clock_mode <- SingleStep` (R141 step 4). -/
def setArmed (s : State) : State := { s with arm := .armed, clockMode := .singleStep }

/-- `arm <- Disarmed`, and `clock_mode <- HardwareFree` where it was SingleStep (R142 steps 3 and 4). -/
def setDisarmed (s : State) : State :=
  { s with arm := .disarmed, clockMode := if s.clockMode = .singleStep then .hardwareFree else s.clockMode }

/-! ### Testing: the preconditions of R72 -/

/-- `own = Acquired`. -/
def acquired (s : State) : Bool := s.own == .acquired

/-- The parameter `CLOCK_REQUIRES_ACQUIRED`: where it is set, the clock operations are refused while Released (D20,
C4; assumption 16). -/
def clockOwnership (s : State) : Bool := !s.cfg.clockRequiresAcquired || acquired s

/-- `NORMAL_CLOCK` needs `arm = Disarmed`. -/
def mayNormalClock (s : State) : Bool := s.arm == .disarmed && clockOwnership s

/-- `SLOW_CLOCK` needs `arm = Disarmed` and `clock_mode = HardwareFree`. -/
def maySlowClock (s : State) : Bool := s.arm == .disarmed && s.clockMode == .hardwareFree && clockOwnership s

/-- `SINGLESTEP_ON` needs `clock_mode` in {HardwareFree, SingleStep}. -/
def maySinglestepOn (s : State) : Bool := s.clockMode == .hardwareFree || s.clockMode == .singleStep

/-- `STEP_WAIT` and `M1_RELEASE_WAIT` need `arm = Armed`. -/
def isArmed (s : State) : Bool := s.arm == .armed

/-! ### The handshake phase (R22) -/

/-- The six phases of R22. -/
inductive Phase where
  | released | requesting | setup | acquired | floated | returning
  deriving DecidableEq, Repr

/-- The phase at a primitive boundary: a function of `own`, `line[BUSREQ]` and the sequencer position (R22). The
line numbers are those of the programs of `TAKE_BUS` and `RELEASE_BUS` (BusController.lean): before line 2 the
request waits, lines 2 to 8 set up, a line after them with the bus not acquired is the cleanup that withdraws the
request; in a release the last two lines are `Deassert(BUSREQ)` and the poll. The groups are not looked at.
Where R22's table has no row the answer is the model's (DESIGN CHOICE, assumption 32). `PhReleased`: `own` Released with
BUSREQ asserted outside `TAKE_BUS` and `RELEASE_BUS` (after an abort or a kill), the steps of a `RELEASE_BUS` that finds
BUSREQ de-asserted up to step 4, and the ends of a `TAKE_BUS` at which BUSREQ is de-asserted. `PhFloated`: a `RELEASE_BUS`
issued while Released with BUSREQ asserted, before its step 1, and any before its step 4's primitive. `PhSetup`: before
step 4 of `TAKE_BUS`. `PhRequesting`: the cleanup of R100 before its primitive. `PhAcquired`: every position with `own`
Acquired, those of a `TAKE_BUS` issued then among them. -/
def phase (s : State) : Phase :=
  match s.own, line s .busreq, s.seq with
  | .acquired, _, _ => .acquired
  | .released, .asserted, .running .takeBus k | .released, .asserted, .running (.takeBusBank _) k =>
    if k < 2 ∨ 8 < k then .requesting else .setup
  | .released, .asserted, .running (.releaseBus _) _ => .floated
  | .released, _, .running (.releaseBus r) k => if (if r then 8 else 5) ≤ k then .returning else .released
  | .released, _, _ => .released

end Sys2Proof.Machine
end

