-- ==== Sys2Proof/Machine/Sequencer.lean ====
section
/-! DEFINITION. The sequencer (R26): an operation's program as a list of numbered lines, one tick of it (one
primitive, one sleep or one assignment), and the run of an operation until it returns or waits. -/

namespace Sys2Proof.Machine

/-- What a line of pseudocode does. -/
inductive Micro where
  /-- a register write -/
  | prim (p : Prim)
  /-- `v <- SamplePort(DATA.LO)`, the value a read operation returns (R112) -/
  | readData
  /-- `PollUntil(s, want, which)` (R98): `want` is `true` for asserted; a timeout continues at the line `cleanup`, which
  ends by raising it (R100), or is raised at once -/
  | poll (s : Signal) (want : Bool) (which : Wait) (cleanup : Option Nat)
  /-- the flag poll, `IocFlag(M1)` until it is latched (R145) -/
  | pollFlag
  /-- `Sleep(d)` (R8) -/
  | sleep (d : Quantity)
  /-- `Sleep(max(0, T - (Now() - t0)))` (R148) -/
  | pace (period : Quantity)
  /-- `t0 <- Now()` (R146) -/
  | stampT0
  /-- `own <- o` -/
  | own (o : BusOwnership)
  /-- `clock_mode <- m` -/
  | mode (m : ClockMode)
  /-- `raise` (R100) -/
  | fail (f : Fault)
  /-- `arm <- Armed; clock_mode <- SingleStep`, after a boundary in which the target's fetch may already set the latch
  (R141 a). Until then `arm` is Disarmed and the target is not halted, so it may finish that fetch and be halted here with
  M1 de-asserted (DESIGN CHOICE, assumption 35) -/
  | armed
  /-- `arm <- Disarmed` and what goes with it -/
  | disarmed
  /-- `while arm = Armed`: go on, else leave the loop at line `exit` (R146). It is no boundary, so a cancellation that is
  pending when an `AUTOSTEP` is issued while Disarmed is not taken by it (DESIGN CHOICE, assumption 38) -/
  | whileArmed (exit : Nat)
  /-- the operation returns -/
  | ret
  deriving DecidableEq, Repr

/-- One line: where it stands in the pseudocode, what it does, and the index of the line after it (`none`: the next
one in the list; a loop's last line names its first). -/
structure ProgLine where
  pos : Pos
  micro : Micro
  jump : Option Nat
  deriving DecidableEq, Repr

/-- A line that the next line follows. Where one operation runs another the spec does not say which of the two a position
names: the model names the one that the line belongs to, the innermost (DESIGN CHOICE, assumption 31). -/
def ln (op : Op) (step part : Nat) (m : Micro) : ProgLine := ⟨⟨op, step, part⟩, m, none⟩

/-- A loop's last line: line `k` follows. -/
def lnLoop (op : Op) (step part : Nat) (m : Micro) (k : Nat) : ProgLine := ⟨⟨op, step, part⟩, m, some k⟩

/-- Move to the line after line `k`. -/
def advance (k : Nat) (l : ProgLine) (s : State) : State :=
  jumpTo (l.jump.getD (k + 1)) s

/-- A poll times out: the fault is raised, or the cleanup that ends in raising it begins (R100, R182). -/
def timeOut (which : Wait) (cleanup : Option Nat) (s : State) : State :=
  match cleanup with
  | some c => jumpTo c s
  | none => raiseFault (.timeout which) s

/-- A failed sample (R98): the poll repeats it, or times out after `POLL_LIMIT` of them. -/
def pollFailed (which : Wait) (cleanup : Option Nat) (s : State) : State :=
  match s.cfg.pollLimit with
  | none => { s with polls := s.polls + 1 }
  | some n => if n ≤ s.polls + 1 then timeOut which cleanup s else { s with polls := s.polls + 1 }

/-- Carry out line `l`, which is line `k` of the operation in progress. A read stores its byte when it samples it, so one
that aborts or is killed afterwards has stored it too (DESIGN CHOICE, assumption 34). -/
def doLine (k : Nat) (l : ProgLine) (s : State) : State :=
  match l.micro with
  | .prim p => access p l.pos (fun t => advance k l (perform p t)) s
  | .readData =>
    access (.samplePort .dataLo) l.pos
      (fun t => advance k l { perform (.samplePort .dataLo) t with result := some (portIn t .dataLo) }) s
  | .poll g want which cleanup =>
    access (.sample g) l.pos
      (fun t =>
        if sensed t g = want then advance k l (perform (.sample g) t)
        else pollFailed which cleanup (perform (.sample g) t)) s
  | .pollFlag =>
    access (.iocFlag .m1) l.pos
      (fun t =>
        if flagLatched t .m1 then advance k l (perform (.iocFlag .m1) t)
        else pollFailed .flagWait none (perform (.iocFlag .m1) t)) s
  | .sleep d => sleepFor (fun _ => d) (advance k l) s
  | .pace period => sleepFor (fun t => paceTime period t.now t.t0) (advance k l) s
  | .stampT0 => advance k l { s with t0 := s.now }
  | .own o => advance k l (setOwn o s)
  | .mode m => advance k l (setClockMode m s)
  | .fail f => raiseFault f s
  | .armed => settle (fun t => advance k l (setArmed t)) s
  | .disarmed => advance k l (setDisarmed s)
  | .whileArmed exit =>
    if isArmed s then advance k l s
    else jumpTo exit s
  | .ret => opReturn s

/-- One tick of a program: the line that the sequencer stands at; past the last line the operation returns. -/
def tick (prog : List ProgLine) (s : State) : State :=
  match s.seq with
  | .idle => s
  | .running _ k =>
    match prog[k]? with
    | some l => doLine k l s
    | none => opReturn s

/-- The sequencer waits: it is at the line it was at, or further back, and the environment does nothing more (the
Hold of R9; an endless loop after a whole turn of it). -/
def parked (old new : Seq) (env : List Slot) : Bool :=
  match old, new with
  | .running _ k, .running _ j => decide (j ≤ k) && env.isEmpty
  | _, _ => false

/-- Tick until the operation has ended or the sequencer waits; `fuel` bounds the ticks (`runFuel` is enough). -/
def runProg (prog : List ProgLine) : Nat → State → State
  | 0, s => s
  | n + 1, s =>
    if s.seq = .idle then s
    else if parked s.seq (tick prog s).seq (tick prog s).env then tick prog s
    else runProg prog n (tick prog s)

/-- Enough ticks: each turn through the lines uses a slot of the environment's script or ends in a wait. -/
def runFuel (prog : List ProgLine) (s : State) : Nat := (prog.length + 1) * (s.env.length + 1)

/-- The run of the operation in progress. -/
def runOp (prog : List ProgLine) (s : State) : State := runProg prog (runFuel prog s) s

/-- An operation begins at line 0 of its program (R26). -/
def beginOp (i : Instr) (s : State) : State := { s with seq := .running i 0, polls := 0, raised := none }

/-- An operation is issued: first its operand domains, then the sequencer, then its precondition on the state (R187);
then it runs. -/
def issue (i : Instr) (allowed : Bool) (prog : List ProgLine) (s : State) : Host.Outcome State Fault Refusal :=
  match badOperand i with
  | some (o, v) => .refused (.invalidArgument o v)
  | none =>
    if s.seq ≠ .idle then .refused (.sequencerBusy (opOf i))
    else if allowed then .next (runOp prog (beginOp i s))
    else .refused (.wrongState (opOf i) s.own s.clockMode s.arm)

end Sys2Proof.Machine
end

