-- ==== Sys2Proof/Machine/AddressEncoder.lean ====
section
/-! DEFINITION. The AddressEncoder's operation, `LATCH_ADDRESS` (40_address_encoder.md). -/

namespace Sys2Proof.Machine

/-- The two lines of `LATCH_ADDRESS`, in the order of `ADDR_PORT_ORDER` (R82). -/
def latchLines (c : Params) (a : Addr) : List ProgLine :=
  match c.addrPortOrder with
  | .hiFirst =>
    [ln .latchAddress 1 0 (.prim (.latch .addrHi (rev8 (hiByte a)))),
      ln .latchAddress 2 0 (.prim (.latch .addrLo (rev8 (loByte a))))]
  | .loFirst =>
    [ln .latchAddress 1 0 (.prim (.latch .addrLo (rev8 (loByte a)))),
      ln .latchAddress 2 0 (.prim (.latch .addrHi (rev8 (hiByte a))))]

/-- The program of `LATCH_ADDRESS(addr)` (R82). -/
def latchAddressProgram (c : Params) (addr : Nat) : List ProgLine := latchLines c (addrOf addr)

/-- `LATCH_ADDRESS(addr)`: never refused for its state (R72, R82). -/
def execLatchAddress (addr : Nat) (s : State) : Host.Outcome State Fault Refusal :=
  issue (.latchAddress addr) true (latchAddressProgram s.cfg addr) s

end Sys2Proof.Machine
end

