-- ==== Sys2Proof/Machine/MemoryIo.lean ====
section
/-! DEFINITION. The MemoryIOAccessor: the four bus cycles and `BANK_SELECT` (42_memory_io_cycles.md). The shape of a
read and of a write is written once (R110); an operation differs in the request strobe it uses. -/

namespace Sys2Proof.Machine

/-- A read cycle with request strobe `req` (R110 steps 1, 3, 4, 5; R112, R114). -/
def readCycle (c : Params) (op : Op) (req : Signal) (a : Addr) : List ProgLine :=
  latchLines c a ++
    [ln op 3 0 (.prim (.assert .rd)),
      ln op 3 0 (.prim (.assert req)),
      ln op 4 0 .readData,
      ln op 5 0 (.prim (.deassert req)),
      ln op 5 0 (.prim (.deassert .rd))]

/-- A write cycle with request strobe `req` (R110 steps 1, 2, 3, 5, 6; R113, R115, R119). -/
def writeCycle (c : Params) (op : Op) (req : Signal) (a : Addr) (d : Byte) : List ProgLine :=
  latchLines c a ++
    [ln op 2 0 (.prim (.drive .data)),
      ln op 2 0 (.prim (.latch .dataLo d)),
      ln op 3 0 (.prim (.assert .wr)),
      ln op 3 0 (.prim (.assert req)),
      ln op 5 0 (.prim (.deassert req)),
      ln op 5 0 (.prim (.deassert .wr)),
      ln op 6 0 (.prim (.float .data))]

/-- The program of `MEM_READ(addr)` (R112). -/
def memReadProgram (c : Params) (addr : Nat) : List ProgLine := readCycle c .memRead .mreq (addrOf addr)

/-- The program of `MEM_WRITE(addr, data)` (R113). -/
def memWriteProgram (c : Params) (addr data : Nat) : List ProgLine :=
  writeCycle c .memWrite .mreq (addrOf addr) (byteOf data)

/-- The program of `IO_READ(addr)` (R114). -/
def ioReadProgram (c : Params) (addr : Nat) : List ProgLine := readCycle c .ioRead .iorq (addrOf addr)

/-- The program of `IO_WRITE(addr, data)` (R115). -/
def ioWriteProgram (c : Params) (addr data : Nat) : List ProgLine :=
  writeCycle c .ioWrite .iorq (addrOf addr) (byteOf data)

/-- The program of `BANK_SELECT(bank)`: the whole of `IO_WRITE(BANK_SELECT_PORT, bank)` (R116). -/
def bankSelectProgram (c : Params) (bank : Nat) : List ProgLine :=
  writeCycle c .ioWrite .iorq c.bankSelectPort (byteOf bank)

/-- `MEM_READ(addr)`: needs `own = Acquired` (R72, R112). -/
def execMemRead (addr : Nat) (s : State) : Host.Outcome State Fault Refusal :=
  issue (.memRead addr) (acquired s) (memReadProgram s.cfg addr) s

/-- `MEM_WRITE(addr, data)`: needs `own = Acquired` (R72, R113). -/
def execMemWrite (addr data : Nat) (s : State) : Host.Outcome State Fault Refusal :=
  issue (.memWrite addr data) (acquired s) (memWriteProgram s.cfg addr data) s

/-- `IO_READ(addr)`: needs `own = Acquired` (R72, R114). -/
def execIoRead (addr : Nat) (s : State) : Host.Outcome State Fault Refusal :=
  issue (.ioRead addr) (acquired s) (ioReadProgram s.cfg addr) s

/-- `IO_WRITE(addr, data)`: needs `own = Acquired` (R72, R115). -/
def execIoWrite (addr data : Nat) (s : State) : Host.Outcome State Fault Refusal :=
  issue (.ioWrite addr data) (acquired s) (ioWriteProgram s.cfg addr data) s

/-- `BANK_SELECT(bank)`: needs `own = Acquired` (R72, R116). -/
def execBankSelect (bank : Nat) (s : State) : Host.Outcome State Fault Refusal :=
  issue (.bankSelect bank) (acquired s) (bankSelectProgram s.cfg bank) s

end Sys2Proof.Machine
end

