-- ==== Sys2Proof/Machine/BusController.lean ====
section
/-! DEFINITION. The BusController: `RESET`, `TAKE_BUS`, `RELEASE_BUS` (41_bus_controller.md). -/

namespace Sys2Proof.Machine

/-- The three lines of `RESET` (R90). -/
def resetLines (c : Params) : List ProgLine :=
  [ln .reset 1 0 (.prim (.assert .reset)),
    ln .reset 2 0 (.sleep c.tResetMin),
    ln .reset 3 0 (.prim (.deassert .reset))]

/-- Steps 1 to 4 of `TAKE_BUS`; after `Timeout(AckWait)` the operation goes on at line `cleanup` (R91, R93, R100). -/
def takeBusLines (cleanup : Nat) : List ProgLine :=
  [ln .takeBus 1 0 (.prim (.assert .busreq)),
    ln .takeBus 2 0 (.poll .busack false .ackWait (some cleanup)),
    ln .takeBus 3 1 (.prim (.drive .addr)),
    ln .takeBus 3 2 (.prim (.drive .strobes)),
    ln .takeBus 3 3 (.prim (.deassert .mreq)),
    ln .takeBus 3 3 (.prim (.deassert .wr)),
    ln .takeBus 3 3 (.prim (.deassert .rd)),
    ln .takeBus 3 3 (.prim (.deassert .iorq)),
    ln .takeBus 4 0 (.own .acquired)]

/-- The return of `TAKE_BUS`, and the cleanup of `Timeout(AckWait)`: withdraw the request, then raise the fault
(R100). -/
def takeBusEnd : List ProgLine :=
  [ln .takeBus 5 0 .ret,
    ln .takeBus 2 0 (.prim (.deassert .busreq)),
    ln .takeBus 2 0 (.fail (.timeout .ackWait))]

/-- The program of `RESET()` (R90). -/
def resetProgram (c : Params) : List ProgLine := resetLines c

/-- The program of `TAKE_BUS()` (R91). -/
def takeBusProgram (_c : Params) : List ProgLine := takeBusLines 10 ++ takeBusEnd

/-- The program of `TAKE_BUS(bank)`: step 5 is one whole `BANK_SELECT(bank)` (R91, R94). -/
def takeBusBankProgram (c : Params) (bank : Nat) : List ProgLine :=
  takeBusLines 19 ++ (bankSelectProgram c bank ++ takeBusEnd)

/-- The program of `RELEASE_BUS(reset)`: the whole pulse of step 3 stands between the floats and the release of
BUSREQ (R95 to R97). -/
def releaseBusProgram (c : Params) (reset : Bool) : List ProgLine :=
  [ln .releaseBus 1 0 (.own .released),
    ln .releaseBus 2 1 (.prim (.float .data)),
    ln .releaseBus 2 2 (.prim (.float .addr)),
    ln .releaseBus 2 3 (.prim (.float .strobes))] ++
    ((if reset then resetLines c else []) ++
      [ln .releaseBus 4 0 (.prim (.deassert .busreq)),
        ln .releaseBus 5 0 (.poll .busack true .returnWait none)])

/-- `RESET()`: defined in every state (R72, R90). -/
def execReset (s : State) : Host.Outcome State Fault Refusal := issue .reset true (resetProgram s.cfg) s

/-- `TAKE_BUS()`: defined for any `own` (R72, R91, R101). -/
def execTakeBus (s : State) : Host.Outcome State Fault Refusal := issue .takeBus true (takeBusProgram s.cfg) s

/-- `TAKE_BUS(bank)`: defined for any `own` (R72, R91, R94, R101). -/
def execTakeBusBank (bank : Nat) (s : State) : Host.Outcome State Fault Refusal :=
  issue (.takeBusBank bank) true (takeBusBankProgram s.cfg bank) s

/-- `RELEASE_BUS(reset)`: defined for any `own` (R72, R95, R102). -/
def execReleaseBus (reset : Bool) (s : State) : Host.Outcome State Fault Refusal :=
  issue (.releaseBus reset) true (releaseBusProgram s.cfg reset) s

end Sys2Proof.Machine
end

