-- ==== Sys2Proof/Machine/Clock.lean ====
section
/-! DEFINITION. The ClockController: `NORMAL_CLOCK`, `SLOW_CLOCK` (43_clock_controller.md). -/

namespace Sys2Proof.Machine

/-- The program of `NORMAL_CLOCK()` (R131). -/
def normalClockProgram (_c : Params) : List ProgLine :=
  [ln .normalClock 1 0 (.prim (.assert .clken)),
    ln .normalClock 2 0 (.mode .hardwareFree)]

/-- The program of `SLOW_CLOCK(rate)` (R132): the scope is open from the first line (step 1); lines 2 to 5 are the
endless loop; the handler of R133 begins at line 6 (`scopeHandler`). -/
def slowClockProgram (_c : Params) (rate : Quantity) : List ProgLine :=
  [ln .slowClock 2 0 (.prim (.deassert .clken)),
    ln .slowClock 2 0 (.mode (.hostSlow rate)),
    ln .slowClock 3 1 (.prim (.clkOut false)),
    ln .slowClock 3 2 (.sleep (halfPeriod rate)),
    ln .slowClock 3 3 (.prim (.clkOut true)),
    lnLoop .slowClock 3 4 (.sleep (halfPeriod rate)) 2,
    ln .slowClock 4 0 (.prim (.assert .clken)),
    ln .slowClock 5 0 (.mode .hardwareFree)]

/-- `NORMAL_CLOCK()`: needs `arm = Disarmed` (R72, R131). -/
def execNormalClock (s : State) : Host.Outcome State Fault Refusal :=
  issue .normalClock (mayNormalClock s) (normalClockProgram s.cfg) s

/-- `SLOW_CLOCK(rate)`: needs `arm = Disarmed` and `clock_mode = HardwareFree` (R72, R132). -/
def execSlowClock (rate : Quantity) (s : State) : Host.Outcome State Fault Refusal :=
  issue (.slowClock rate) (maySlowClock s) (slowClockProgram s.cfg rate) s

end Sys2Proof.Machine
end

