-- ==== Sys2Proof/Machine/SingleStep.lean ====
section
/-! DEFINITION. The SingleStepController: `SINGLESTEP_ON`, `SINGLESTEP_OFF`, `M1_RELEASE_WAIT`, `STEP_WAIT`,
`AUTOSTEP` (44_single_step.md). -/

namespace Sys2Proof.Machine

/-- The program of `SINGLESTEP_ON()` (R141). -/
def singlestepOnProgram (c : Params) : List ProgLine :=
  [ln .singlestepOn 1 0 (.prim (.iocConfig .m1 .cmp true)),
    ln .singlestepOn 2 0 (.prim (.iocConfig .m1 .dflt (!assertedLevel c .m1))),
    ln .singlestepOn 3 0 (.prim (.iocConfig .m1 .en true)),
    ln .singlestepOn 4 0 .armed]

/-- The lines of `SINGLESTEP_OFF` (R142); step 2 is the chip's own doing (`storeWrite`). -/
def singlestepOffLines : List ProgLine :=
  [ln .singlestepOff 1 0 (.prim (.iocConfig .m1 .en false)),
    ln .singlestepOff 3 0 .disarmed]

/-- The program of `SINGLESTEP_OFF()` (R142). -/
def singlestepOffProgram (_c : Params) : List ProgLine := singlestepOffLines

/-- The line of `M1_RELEASE_WAIT` (R144). -/
def m1ReleaseLine : ProgLine := ln .m1ReleaseWait 1 0 (.poll .m1 false .levelWait none)

/-- The program of `M1_RELEASE_WAIT()` (R144). -/
def m1ReleaseWaitProgram (_c : Params) : List ProgLine := [m1ReleaseLine]

/-- The lines of `STEP_WAIT`: step a, then `M1_RELEASE_WAIT` (R145). -/
def stepWaitLines : List ProgLine := [ln .stepWait 0 1 .pollFlag, m1ReleaseLine]

/-- The program of `STEP_WAIT()` (R145). -/
def stepWaitProgram (_c : Params) : List ProgLine := stepWaitLines

/-- The program of `AUTOSTEP(rate)` (R146, R148): the scope is open from the first line; the handler of R147, the
whole of `SINGLESTEP_OFF`, begins at line 5 (`scopeHandler`). -/
def autostepProgram (_c : Params) (rate : Quantity) : List ProgLine :=
  [ln .autostep 2 0 (.whileArmed 5),
    ln .autostep 2 0 .stampT0] ++
    (stepWaitLines ++
      (lnLoop .autostep 2 3 (.pace (stepPeriod rate)) 0 :: singlestepOffLines))

/-- `SINGLESTEP_ON()`: needs `clock_mode` HardwareFree or SingleStep (R72, R141). -/
def execSinglestepOn (s : State) : Host.Outcome State Fault Refusal :=
  issue .singlestepOn (maySinglestepOn s) (singlestepOnProgram s.cfg) s

/-- `SINGLESTEP_OFF()`: defined in every state (R72, R142). -/
def execSinglestepOff (s : State) : Host.Outcome State Fault Refusal :=
  issue .singlestepOff true (singlestepOffProgram s.cfg) s

/-- `M1_RELEASE_WAIT()`: needs `arm = Armed` (R72, R144). -/
def execM1ReleaseWait (s : State) : Host.Outcome State Fault Refusal :=
  issue .m1ReleaseWait (isArmed s) (m1ReleaseWaitProgram s.cfg) s

/-- `STEP_WAIT()`: needs `arm = Armed` (R72, R145). -/
def execStepWait (s : State) : Host.Outcome State Fault Refusal :=
  issue .stepWait (isArmed s) (stepWaitProgram s.cfg) s

/-- `AUTOSTEP(rate)`: never refused for its state; Disarmed it performs no iteration (R72, R146). -/
def execAutostep (rate : Quantity) (s : State) : Host.Outcome State Fault Refusal :=
  issue (.autostep rate) true (autostepProgram s.cfg rate) s

end Sys2Proof.Machine
end

