-- ==== Sys2Proof/Machine/Dispatch.lean ====
section
/-! DEFINITION. One arm per command: its meaning. -/

namespace Sys2Proof.Machine

def exec (i : Instr) (s : State) : Host.Outcome State Fault Refusal :=
  match i with
  | .reset => Sys2Proof.Machine.execReset s
  | .takeBus => Sys2Proof.Machine.execTakeBus s
  | .takeBusBank bank => Sys2Proof.Machine.execTakeBusBank bank s
  | .releaseBus reset => Sys2Proof.Machine.execReleaseBus reset s
  | .memRead addr => Sys2Proof.Machine.execMemRead addr s
  | .memWrite addr data => Sys2Proof.Machine.execMemWrite addr data s
  | .ioRead addr => Sys2Proof.Machine.execIoRead addr s
  | .ioWrite addr data => Sys2Proof.Machine.execIoWrite addr data s
  | .normalClock => Sys2Proof.Machine.execNormalClock s
  | .slowClock rate => Sys2Proof.Machine.execSlowClock rate s
  | .singlestepOn => Sys2Proof.Machine.execSinglestepOn s
  | .singlestepOff => Sys2Proof.Machine.execSinglestepOff s
  | .autostep rate => Sys2Proof.Machine.execAutostep rate s
  | .stepWait => Sys2Proof.Machine.execStepWait s
  | .m1ReleaseWait => Sys2Proof.Machine.execM1ReleaseWait s
  | .latchAddress addr => Sys2Proof.Machine.execLatchAddress addr s
  | .bankSelect bank => Sys2Proof.Machine.execBankSelect bank s

end Sys2Proof.Machine
end

