-- ==== Sys2Proof/Machine/HostCommands.lean ====
section
/-! DEFINITION. The programs by command, so that an operation in progress can go on; and the command surface, the
pseudo-instructions of 45_host_commands.md, as expansions into the sixteen operations. -/

namespace Sys2Proof.Machine

/-- The program of a command under the parameters. -/
def programOf (c : Params) : Instr → List ProgLine
  | .reset => resetProgram c
  | .takeBus => takeBusProgram c
  | .takeBusBank b => takeBusBankProgram c b
  | .releaseBus r => releaseBusProgram c r
  | .memRead a => memReadProgram c a
  | .memWrite a d => memWriteProgram c a d
  | .ioRead a => ioReadProgram c a
  | .ioWrite a d => ioWriteProgram c a d
  | .normalClock => normalClockProgram c
  | .slowClock r => slowClockProgram c r
  | .singlestepOn => singlestepOnProgram c
  | .singlestepOff => singlestepOffProgram c
  | .autostep r => autostepProgram c r
  | .stepWait => stepWaitProgram c
  | .m1ReleaseWait => m1ReleaseWaitProgram c
  | .latchAddress a => latchAddressProgram c a
  | .bankSelect b => bankSelectProgram c b

/-- The operation in progress goes on from where it waits. -/
def resumeOp (s : State) : State :=
  match s.seq with
  | .idle => s
  | .running i _ => runOp (programOf s.cfg i) s

/-! ### Expansions -/

/-- `TAKE_BUS(bank?)` (R160). -/
def takeFor (bank : Option Nat) : Instr :=
  match bank with
  | none => .takeBus
  | some b => .takeBusBank b

/-- The frame of R160 around a body. -/
def framed (o : FrameOptions) (body : List CommandStep) : List CommandStep :=
  .op (takeFor o.bank) :: (body ++ if o.skipRelease then [] else [.op (.releaseBus o.resetOnRelease)])

/-- The writes of `loadhex` at ascending addresses (R164). -/
def loadSteps : Nat → List Byte → List CommandStep
  | _, [] => []
  | a, b :: r => .op (.memWrite a b.toNat) :: loadSteps (a + 1) r

/-- The reads of `memdump` and `savehex` at ascending addresses (R162, R163). -/
def dumpSteps (print : Bool) (base : Nat) : Nat → List CommandStep
  | 0 => []
  | n + 1 => (.op (.memRead base) :: if print then [.print] else []) ++ dumpSteps print (base + 1) n

/-- What a command does first, and what remains of it (R161 to R173). `iowatch` and `showint` loop for ever;
`autostep` and `singlestep` begin by arming. The spec does not say when `peek` and `ioread` print relative to the frame's
`RELEASE_BUS`: here right after the read, before it (DESIGN CHOICE, assumption 40). -/
def expand : HostCommand → CommandRest
  | .reset => .steps [.op .reset]
  | .memdump base n o => .steps (framed o (dumpSteps true base n))
  | .savehex base n o => .steps (framed o (dumpSteps false base n))
  | .loadhex base bytes o => .steps (framed o (loadSteps base bytes))
  | .peek a o => .steps (framed o [.op (.memRead a), .print])
  | .poke a v o => .steps (framed o [.op (.memWrite a v)])
  | .ioread a o => .steps (framed o [.op (.ioRead a), .print])
  | .iowrite a v o => .steps (framed o [.op (.ioWrite a v)])
  | .iowatch a _ => .watch a none
  | .slowclock r => .steps [.op (.slowClock r)]
  | .autostep r => .autostepArmed r
  | .singlestep => .interactive
  | .showint => .showInt none

/-- The operation that a command performs before the rest of its expansion, where that is not in the list. -/
def preamble : HostCommand → Option Instr
  | .iowatch _ bank => some (takeFor bank)
  | .autostep _ | .singlestep => some .singlestepOn
  | _ => none

/-- Put what remains of the command in front of the caller's requests. -/
def pushRest (r : CommandRest) (s : State) : State := { s with requests := .rest r :: s.requests }

/-- Print the byte that the last read returned. -/
def printResult (s : State) : State :=
  match s.result with
  | some v => { s with console := s.console ++ [.byte v] }
  | none => s

/-- Nothing is requested: the environment acts. -/
def idleTurn (s : State) : State := (boundary s).1

/-- The wait for the user's next event (R171): the environment acts, and a kill ends the command. -/
def waitForUser (s : State) : State := settle id s

/-- The handler of a command's scope: one `SINGLESTEP_OFF`, on every exit path (R191, R193); where a refusal is the reason
for leaving, the run ends as that refusal after it. -/
def leaveScope (why : Option Refusal) (s : State) : Host.Outcome State Fault Refusal :=
  exec .singlestepOff (pushRest (.handler why) s)

/-- An operation in the scope of `autostep` or `singlestep`, with `r` to follow. Should it be refused, the scope is left
through its handler all the same (R170, R191, R231). -/
def issueInScope (i : Instr) (r : CommandRest) (s : State) : Host.Outcome State Fault Refusal :=
  match exec i (pushRest r s) with
  | .refused why => leaveScope (some why) s
  | o => o

/-- The commands that open a scope around their whole body, `SINGLESTEP_ON` included (R191). -/
def opensScope : HostCommand → Bool
  | .autostep _ | .singlestep => true
  | _ => false

/-- A new invocation: no operation of it has faulted yet. The operands of the operations it expands to are checked when
each is issued, not here (DESIGN CHOICE, assumption 41). -/
def startCommand (c : HostCommand) (s : State) : Host.Outcome State Fault Refusal :=
  match preamble c with
  | none => .next (pushRest (expand c) { s with raised := none })
  | some i =>
    if opensScope c then issueInScope i (expand c) { s with raised := none }
    else exec i (pushRest (expand c) { s with raised := none })

/-- `showint`: sample INT and print its transitions (R173); a fault or a kill ends the command. -/
def showIntTurn (last : Option Bool) (s : State) : State :=
  access (.sample .int) ⟨.showInt, 1, 0⟩
    (fun t =>
      let r := sensed t .int
      let t' := pushRest (.showInt (some r)) (perform (.sample .int) t)
      if last.isSome && last != some r then { t' with console := t'.console ++ [.int r] } else t')
    s

/-- One turn of a command in progress, with what follows it already in `s.requests`. The spec gives no priority between
a pending cancellation and a queued user event in `singlestep`: the cancellation is taken first, and the event stays
queued (DESIGN CHOICE, assumption 33). Nor does it say whether a cancellation that is pending when a fault ends a command
is spent: `singlestep` clears it there too, `autostep` and `iowatch` leave it pending (DESIGN CHOICE, assumption 36). An
`autostep` whose rate is outside its domain is refused at its `AUTOSTEP`, after `SINGLESTEP_ON`, when that is issued; then
`SINGLESTEP_OFF` runs, and the run ends as the refusal (DESIGN CHOICE, assumption 41). -/
def continueCommand (r : CommandRest) (s : State) : Host.Outcome State Fault Refusal :=
  match r with
  | .steps [] => .next s
  | .steps (.op i :: l) => if s.raised.isSome then .next s else exec i (pushRest (.steps l) s)
  | .steps (.print :: l) => if s.raised.isSome then .next s else .next (pushRest (.steps l) (printResult s))
  | .autostepArmed rate => if s.raised.isSome then leaveScope none s else issueInScope (.autostep rate) .autostepEnd s
  | .autostepEnd => leaveScope none s
  | .handler none => .next s
  | .handler (some why) => .refused why
  | .interactive =>
    if s.raised.isSome || s.cancel then leaveScope none { s with cancel := false }
    else
      match s.users with
      | [] => .next (waitForUser (pushRest .interactive s))
      | .advance :: u => issueInScope .m1ReleaseWait .interactive { s with users := u }
      | .quit :: u => leaveScope none { s with users := u }
  | .watch a last =>
    if s.raised.isSome then .next s
    else if s.cancel then
      if Config.iowatchReleases s.draws then
        exec (.releaseBus false) { s with cancel := false, draws := s.draws + 1 }
      else .next { s with cancel := false, draws := s.draws + 1 }
    else exec (.ioRead a) (pushRest (.watched a last) s)
  | .watched a last =>
    if s.raised.isSome then .next s
    else if s.result = last then .next (pushRest (.watch a last) s)
    else .next (pushRest (.watch a s.result) (printResult s))
  | .showInt last =>
    if s.cancel then .next { s with cancel := false } else .next (showIntTurn last s)

end Sys2Proof.Machine
end

