-- ==== Sys2Proof/Machine/Step.lean ====
section
/-! DEFINITION. One step of the machine: an operation that waits goes on; else the caller's next request is taken;
else the environment acts. -/

namespace Sys2Proof.Machine

/-- One step. An operation in progress goes on from where it waits (the Hold of R9 when its condition is still
false). With the sequencer idle the caller's next request is taken (R26): a packed word is decoded first (R187), an
abstract record is run (R62), a command of the command surface is expanded (45_host_commands.md). With nothing
requested the environment acts. -/
def step (s : State) : Host.Outcome State Fault Refusal :=
  match s.seq with
  | .running _ _ => .next (resumeOp s)
  | .idle =>
    match s.requests with
    | [] => .next (idleTurn s)
    | .word w :: rest =>
      match decode w with
      | .command i => exec i { s with requests := rest }
      | .rejected why => .refused (.reservedWord w why)
    | .record i :: rest => exec i { s with requests := rest }
    | .command c :: rest => startCommand c { s with requests := rest }
    | .rest r :: rest => continueCommand r { s with requests := rest }

/-- The packed word `w` stands where the next step takes its request: first in the caller's requests, with the
sequencer idle (R26, R63; assumption 8). Every row has one word of 32 bits, so `nbits` decides nothing. -/
def State.withFetchWord (s : State) (_nbits w : Nat) : State :=
  { s with seq := .idle, requests := .word (BitVec.ofNat 32 w) :: s.requests }

end Sys2Proof.Machine
end

