-- ==== Sys2Proof/Safety.lean ====
section
/-! DEFINITION. What counts as a safe state (the invariants of R30, with the position in the operation in progress),
and the named premises and frames that the statements use. Each predicate is a decidable one, so that a test can
evaluate it. -/

namespace Sys2Proof.Machine

/-! ### Groups -/

/-- Every pin of ADDR is an output. -/
abbrev addrDriven (s : State) : Prop :=
  s.dir.addrHi = allPins s.cfg true ∧ s.dir.addrLo = allPins s.cfg true

/-- Every pin of ADDR is an input. -/
abbrev addrFloats (s : State) : Prop :=
  s.dir.addrHi = allPins s.cfg false ∧ s.dir.addrLo = allPins s.cfg false

/-- Every pin of DATA is an output. -/
abbrev dataDriven (s : State) : Prop := s.dir.dataLo = allPins s.cfg true

/-- Every pin of DATA is an input. -/
abbrev dataFloats (s : State) : Prop := s.dir.dataLo = allPins s.cfg false

/-- The pins of the four strobes are outputs. -/
abbrev strobesDriven (s : State) : Prop := ∀ g ∈ strobes, isOutput s (s.cfg.pins.pin g) = true

/-- The pins of the four strobes are inputs. -/
abbrev strobesFloat (s : State) : Prop := ∀ g ∈ strobes, isOutput s (s.cfg.pins.pin g) = false

/-- The latch of a signal holds its asserted level, or not. -/
abbrev latchAt (s : State) (g : Signal) (active : Bool) : Prop :=
  getPin s.out (s.cfg.pins.pin g) = levelOf s.cfg g active

/-- The premise `StrobeLatchesInactive` of R213: the four strobe latches hold the de-asserted level. -/
abbrev strobeLatchesInactive (s : State) : Prop := ∀ g ∈ strobes, latchAt s g false

/-- BUSREQ, RESET, CLKEN and CLKOUT are outputs; M1, CLK, INT and BUSACK are inputs (R14, R16). -/
abbrev pinRoles (s : State) : Prop :=
  (∀ g ∈ [Signal.busreq, .reset, .clken, .clkout], isOutput s (s.cfg.pins.pin g) = true) ∧
    ∀ g ∈ targetSignals, isOutput s (s.cfg.pins.pin g) = false

/-! ### Positions in the operation in progress -/

/-- The index of the next line inside a write cycle, where one is in progress (R110). -/
def writeAt : Seq → Option Nat
  | .running (.memWrite _ _) k | .running (.ioWrite _ _) k | .running (.bankSelect _) k => some k
  | .running (.takeBusBank _) k => if 9 ≤ k ∧ k ≤ 18 then some (k - 9) else none
  | _ => none

/-- The index of the next line inside a read cycle, where one is in progress (R110). -/
def readAt : Seq → Option Nat
  | .running (.memRead _) k | .running (.ioRead _) k => some k
  | _ => none

/-- The request strobe of the cycle in progress. -/
def requestOf : Seq → Signal
  | .running (.memRead _) _ | .running (.memWrite _ _) _ => .mreq
  | _ => .iorq

/-- The strobes that the cycle in progress holds asserted before its next line (R117). -/
def activeStrobe (q : Seq) (g : Signal) : Bool :=
  match writeAt q, readAt q with
  | some k, _ => (g == .wr && 5 ≤ k && k ≤ 7) || (g == requestOf q && k == 6)
  | none, some k => (g == .rd && 3 ≤ k && k ≤ 6) || (g == requestOf q && 4 ≤ k && k ≤ 5)
  | none, none => false

/-- DATA is driven before the next line of a write cycle (R119). -/
def driveData (q : Seq) : Bool :=
  match writeAt q with
  | some k => 3 ≤ k && k ≤ 8
  | none => false

/-- The next line of `TAKE_BUS`, where its steps 1 to 4 are in progress. -/
def takeAt : Seq → Option Nat
  | .running .takeBus k => if k ≤ 9 then some k else none
  | .running (.takeBusBank _) k => if k ≤ 8 then some k else none
  | _ => none

/-- The next line of the cleanup of `Timeout(AckWait)`, where it is in progress (R100). -/
def withdrawAt : Seq → Option Nat
  | .running .takeBus k => if 10 ≤ k then some (k - 10) else none
  | .running (.takeBusBank _) k => if 19 ≤ k then some (k - 19) else none
  | _ => none

/-- The next line of `RELEASE_BUS` and the line that de-asserts BUSREQ. -/
def releaseAt : Seq → Option (Nat × Nat)
  | .running (.releaseBus r) k => some (k, if r then 7 else 4)
  | _ => none

/-- RESET is asserted before the next line (R90, R96). -/
def pulseAt : Seq → Bool
  | .running .reset k => 1 ≤ k && k ≤ 2
  | .running (.releaseBus true) k => 5 ≤ k && k ≤ 6
  | _ => false

/-- The strobe latches that step 3c of `TAKE_BUS` has forced before its line `k` (R91). -/
def forcedBefore (k : Nat) (g : Signal) : Bool :=
  (g == .mreq && 5 ≤ k) || (g == .wr && 6 ≤ k) || (g == .rd && 7 ≤ k) || (g == .iorq && 8 ≤ k)

/-! ### The invariants of R30 -/

/-- The position belongs to the operation; the cycle operations and the end of `TAKE_BUS` have the bus, its cleanup has
it not, `RELEASE_BUS` gives it up at its first line. -/
abbrev positionOk (s : State) : Prop :=
  ((writeAt s.seq).isSome = true → s.own = .acquired) ∧
    ((readAt s.seq).isSome = true → s.own = .acquired) ∧
    (∀ k ∈ takeAt s.seq, k = 9 → s.own = .acquired) ∧
    (∀ k ∈ withdrawAt s.seq, k ≤ 1 ∧ s.own = .released) ∧
    (∀ k ∈ writeAt s.seq, k ≤ 9) ∧ (∀ k ∈ readAt s.seq, k ≤ 7) ∧
    (∀ p ∈ releaseAt s.seq, 1 ≤ p.1 → s.own = .released)

/-- I-OWN and the driven groups (R30, R217): who drives the bus has been granted it. -/
abbrev busDriven (s : State) : Prop :=
  (s.own = .acquired → addrDriven s ∧ strobesDriven s ∧ line s .busreq = .asserted ∧ s.target.ownsBus = false) ∧
    (¬ addrFloats s ∨ ¬ strobesFloat s ∨ ¬ dataFloats s →
      line s .busreq = .asserted ∧ s.target.ownsBus = false) ∧
    (∀ k ∈ takeAt s.seq, 1 ≤ k → line s .busreq = .asserted ∧ (2 ≤ k → s.target.ownsBus = false))

/-- I-DIR and I-DATA (R30): a group is wholly driven or wholly floating, and DATA is driven between steps 2 and 6 of
a write cycle and nowhere else. -/
abbrev busFloating (s : State) : Prop :=
  (addrDriven s ∨ addrFloats s) ∧ (strobesDriven s ∨ strobesFloat s) ∧
    (if driveData s.seq then dataDriven s else dataFloats s)

/-- I-DIR (R30): outside `TAKE_BUS` and `RELEASE_BUS`, while Released, the groups float and BUSREQ is de-asserted
(phase `PhReleased` of R22). -/
abbrev busOutside (s : State) : Prop :=
  s.own = .released → takeAt s.seq = none → withdrawAt s.seq = none → releaseAt s.seq = none →
    addrFloats s ∧ strobesFloat s ∧ line s .busreq = .deasserted

/-- I-DIR (R30) in the phases `PhRequesting` and `PhSetup` of R22. -/
abbrev busTaking (s : State) : Prop :=
  s.own = .released → ∀ k ∈ takeAt s.seq,
    (k ≤ 2 → addrFloats s) ∧ (k ≤ 3 → strobesFloat s) ∧ (k = 0 → line s .busreq = .deasserted) ∧
      (3 ≤ k → addrDriven s) ∧ (4 ≤ k → strobesDriven s)

/-- I-DIR (R30) in the cleanup of `Timeout(AckWait)`: the groups still float, and its one primitive de-asserts BUSREQ
(R100). -/
abbrev busWithdrawing (s : State) : Prop :=
  ∀ k ∈ withdrawAt s.seq,
    addrFloats s ∧ strobesFloat s ∧ line s .busreq = (if k = 0 then .asserted else .deasserted)

/-- I-DIR (R30) in the phases `PhFloated` and `PhReturning` of R22. -/
abbrev busReleasing (s : State) : Prop :=
  s.own = .released → ∀ p ∈ releaseAt s.seq,
    (3 ≤ p.1 → addrFloats s) ∧ (4 ≤ p.1 → strobesFloat s) ∧ (p.2 < p.1 → line s .busreq = .deasserted) ∧
      (p.1 = 0 → addrFloats s ∧ strobesFloat s ∧ line s .busreq = .deasserted)

/-- The four strobe latches hold what the position asks for: inactive but in the window of a cycle. With the premise
`StrobeLatchesInactive` of R213 this is I-STROBE without its exception. -/
abbrev strobesAsPlaced (s : State) : Prop := ∀ g ∈ strobes, latchAt s g (activeStrobe s.seq g)

/-- I-STROBE (R30): a strobe's latch is inactive but in the window of a cycle, once an event has de-asserted the strobe,
which the first completed step 3c does for ever (R218), and in any case while the strobes are driven; but for the launch
window of R226, which is therefore that of the first `TAKE_BUS` alone. -/
abbrev strobeWindow (s : State) : Prop :=
  (∀ g ∈ strobes, Event.deassert g ∈ s.trace → latchAt s g (activeStrobe s.seq g)) ∧
    (strobesDriven s →
      if s.own = .released ∧ (takeAt s.seq).isSome = true then
        ∀ k ∈ takeAt s.seq, ∀ g ∈ strobes, forcedBefore k g = true → latchAt s g false
      else strobesAsPlaced s)

/-- The target's side: off the bus it holds M1 de-asserted (R45 c); RESET is asserted in a pulse and nowhere else
(R90). -/
abbrev targetHeld (s : State) : Prop :=
  (s.target.ownsBus = false → s.target.m1 = false) ∧
    line s .reset = (if pulseAt s.seq then .asserted else .deasserted)

/-- The rate and the next line of `SLOW_CLOCK`. -/
def slowAt : Seq → Option (Quantity × Nat)
  | .running (.slowClock r) k => some (r, k)
  | _ => none

/-- I-CLK (R30, R134, R219), with the lines of `SLOW_CLOCK` at which one half of a switch is done. -/
abbrev clockSafe (s : State) : Prop :=
  (slowAt s.seq = none → (s.clockMode = .hardwareFree ∨ s.clockMode = .singleStep) ∧ line s .clken = .asserted) ∧
    ∀ p ∈ slowAt s.seq,
      s.arm = .disarmed ∧ (s.clockMode = .hardwareFree ∨ s.clockMode = .hostSlow p.1) ∧
        (p.2 = 0 → s.clockMode = .hardwareFree ∧ line s .clken = .asserted) ∧
        (p.2 = 1 → s.clockMode = .hardwareFree ∧ line s .clken = .deasserted) ∧
        (2 ≤ p.2 ∧ p.2 ≤ 5 → s.clockMode = .hostSlow p.1 ∧ line s .clken = .deasserted) ∧
        (p.2 = 6 → line s .clken = (if s.clockMode = .hardwareFree then .asserted else .deasserted)) ∧
        (7 ≤ p.2 → line s .clken = .asserted) ∧ (8 ≤ p.2 → s.clockMode = .hardwareFree)

/-- The bit of M1 in an interrupt-on-change register. -/
def m1Bit (s : State) (b : Byte) : Bool := bitAt b s.cfg.pins.m1.bit

/-- `SINGLESTEP_ON` has set the `IOC_CMP` bit of M1 (R141). -/
def comparing : Seq → Bool
  | .running .singlestepOn k => 1 ≤ k
  | _ => false

/-- The chip's enable bit is set and the flag `arm` is not yet (R141 between steps 3 and 4). -/
def enabling : Seq → Bool
  | .running .singlestepOn k => k == 3
  | _ => false

/-- The chip's enable bit is clear and the flag `arm` is not yet (R142 between steps 1 and 3). -/
def disabling : Seq → Bool
  | .running .singlestepOff k => k == 1
  | .running (.autostep _) k => k == 6
  | _ => false

/-- `NORMAL_CLOCK` is in progress; it is refused while Armed (R131). -/
def switching : Seq → Bool
  | .running .normalClock _ => true
  | _ => false

/-- I-ARM (R28, R30, R219), with the lines of `SINGLESTEP_ON` and `SINGLESTEP_OFF` at which the chip's bit and the
flag differ. -/
abbrev armSafe (s : State) : Prop :=
  (s.arm = .armed ↔ s.clockMode = .singleStep) ∧
    (s.arm = .armed ∨ comparing s.seq = true → m1Bit s s.ioc.cmp = true) ∧
    m1Bit s s.ioc.en = (enabling s.seq || (s.arm == .armed && !disabling s.seq)) ∧
    (switching s.seq = true → s.arm = .disarmed)

/-- THE INVARIANT: parameters in their domains, no fault and no kill so far, memory in canonical form, and the
invariants of R30 at the position where the sequencer stands. -/
structure Good (s : State) : Prop where
  params : s.cfg.WellFormed
  noFault : s.fault = none
  alive : s.killed = false
  memory : s.target.mem.wf = true
  roles : pinRoles s
  position : positionOk s
  driven : busDriven s
  floating : busFloating s
  outside : busOutside s
  taking : busTaking s
  withdrawing : busWithdrawing s
  releasing : busReleasing s
  window : strobeWindow s
  target : targetHeld s
  clock : clockSafe s
  arming : armSafe s

/-! ### Premises about the environment's script -/

/-- No boundary fails an access or kills the controller: the premise `TRANSPORT_MAY_FAIL = false` of R184, or a
transport that happens not to fail. -/
abbrev Sound (s : State) : Prop := ∀ l ∈ s.env, fateOf s.cfg l.fate = .ok

/-- A boundary at which nothing happens. -/
def idleSlot : Slot := ⟨[], .ok⟩

/-- A boundary at which one thing happens. -/
def slotOf (a : EnvAct) : Slot := ⟨[a], .ok⟩

/-- The environment does nothing at any boundary, and no access fails. -/
abbrev Quiet (s : State) : Prop := ∀ l ∈ s.env, l = idleSlot

/-- A cycle may begin (R111): the bus is held and nothing is in progress. -/
abbrev Held (s : State) : Prop := Good s ∧ s.own = .acquired ∧ s.seq = .idle ∧ Sound s

/-! ### Frames -/

/-- The controller's own flags and records that most operations leave alone: ownership, clock mode, arm state, fault,
the time stamp, the caller's side. -/
abbrev FlagsKept (s t : State) : Prop :=
  t.cfg = s.cfg ∧ t.own = s.own ∧ t.clockMode = s.clockMode ∧ t.arm = s.arm ∧ t.fault = s.fault ∧
    t.killed = s.killed ∧ t.t0 = s.t0 ∧ t.requests = s.requests ∧ t.console = s.console

/-- The same but for `arm` and `clock_mode`, which the clock and single-step operations write. -/
abbrev RecordsKept (s t : State) : Prop :=
  t.cfg = s.cfg ∧ t.own = s.own ∧ t.fault = s.fault ∧ t.killed = s.killed ∧ t.t0 = s.t0 ∧ t.requests = s.requests ∧
    t.console = s.console

/-- The target's side but for its memory, its IO devices' history and its bank register; INT and CLK are the
board's own at every boundary (R29). -/
abbrev TargetKept (s t : State) : Prop :=
  t.target.ownsBus = s.target.ownsBus ∧ t.target.m1 = s.target.m1 ∧ t.target.cpu = s.target.cpu ∧
    t.target.resetSince = s.target.resetSince

/-- The target's memory, its devices' history and its bank register. -/
abbrev StoresKept (s t : State) : Prop :=
  t.target.mem = s.target.mem ∧ t.target.io = s.target.io ∧ t.target.bank = s.target.bank

/-- No kill has ended the operation that leads from `s` to `t`: there has been none at all, or none is at the boundaries
that it used; `killed` stays set after an earlier one (assumption 14). -/
abbrev NotKilled (s t : State) : Prop :=
  t.killed = false ∨ ∃ used, s.env = used ++ t.env ∧ ∀ l ∈ used, l.fate ≠ .kill

/-- `o` is what the operation `i` of a command's scope leads to, with `r` and then `rest` to follow: where R72 allows it, it
runs; elsewhere it is refused, and the scope is left through its `SINGLESTEP_OFF` with that refusal to follow (R191). -/
abbrev RunsInScope (allowed : Prop) (i : Instr) (r : CommandRest) (rest : List Request) (s : State)
    (o : Host.Outcome State Fault Refusal) : Prop :=
  (allowed → o = exec i { s with requests := .rest r :: rest }) ∧
    (¬ allowed → o = exec .singlestepOff { s with
      requests := .rest (.handler (some (.wrongState (opOf i) s.own s.clockMode s.arm))) :: rest })

/-- The operation has returned without a fault of its own. -/
abbrev Returned (t : State) : Prop := t.seq = .idle ∧ t.raised = none ∧ t.polls = 0

/-! ### Shapes of traces and registers that the statements share -/

/-- The two events of latching an address, in the order of `ADDR_PORT_ORDER` (R82). -/
def latchEvents (c : Params) (a : Addr) : List Event :=
  match c.addrPortOrder with
  | .hiFirst => [.latch .addrHi (rev8 (hiByte a)), .latch .addrLo (rev8 (loByte a))]
  | .loFirst => [.latch .addrLo (rev8 (loByte a)), .latch .addrHi (rev8 (hiByte a))]

/-- The nine events of a write cycle with request strobe `req` (R113, R115). -/
def writeEvents (c : Params) (req : Signal) (a : Addr) (d : Byte) : List Event :=
  latchEvents c a ++
    [.drive .data, .latch .dataLo d, .assert .wr, .assert req, .deassert req, .deassert .wr, .float .data]

/-- The seven events of a read cycle with request strobe `req` that samples `v` (R112, R114). -/
def readEvents (c : Params) (req : Signal) (a : Addr) (v : Byte) : List Event :=
  latchEvents c a ++ [.assert .rd, .assert req, .sample .dataLo v, .deassert req, .deassert .rd]

/-- The output latches with an address latched (R65). -/
def latched (r : Ports) (a : Addr) : Ports := { r with addrHi := rev8 (hiByte a), addrLo := rev8 (loByte a) }

/-- The output latches with an address and a data byte latched (R65, R66). -/
def latchedData (r : Ports) (a : Addr) (d : Byte) : Ports := { latched r a with dataLo := d }

/-- A register with the pin of a signal at its asserted level, or not. -/
def withSignal (c : Params) (r : Ports) (g : Signal) (active : Bool) : Ports :=
  setPin r (c.pins.pin g) (levelOf c g active)

/-- The events of step 3 of `TAKE_BUS` (R91). -/
def setupEvents : List Event :=
  [.drive .addr, .drive .strobes, .deassert .mreq, .deassert .wr, .deassert .rd, .deassert .iorq]

/-- The events of steps 1 to 3 of `TAKE_BUS` with `n` failed samples (R91, R98). -/
def takeEvents (n : Nat) : List Event :=
  [Event.assert .busreq] ++ List.replicate n (Event.sampleSig .busack true) ++ [Event.sampleSig .busack false] ++
    setupEvents

/-- The events of step 5 of `TAKE_BUS`: those of one `IO_WRITE` to `BANK_SELECT_PORT`, or none (R94). -/
def bankEvents (c : Params) (bank : Option Nat) : List Event :=
  match bank with
  | some b => writeEvents c .iorq c.bankSelectPort (byteOf b)
  | none => []

/-- What the IO devices see of step 5 of `TAKE_BUS` (R94). -/
def bankAccess (c : Params) (bank : Option Nat) : List IoAccess :=
  match bank with
  | some b => [.write c.bankSelectPort (byteOf b)]
  | none => []

/-- The output latches after step 5 of `TAKE_BUS` (R94). -/
def bankLatches (c : Params) (bank : Option Nat) (r : Ports) : Ports :=
  match bank with
  | some b => latchedData r c.bankSelectPort (byteOf b)
  | none => r

/-- The bank register after step 5 of `TAKE_BUS` (R94). -/
def bankAfter (bank : Option Nat) (old : Byte) : Byte :=
  match bank with
  | some b => byteOf b
  | none => old

/-- The events of step 2 of `RELEASE_BUS` (R95). -/
def floatEvents : List Event := [.float .data, .float .addr, .float .strobes]

/-- The three events of the reset pulse (R90). -/
def pulseEvents (c : Params) : List Event := [.assert .reset, .sleep c.tResetMin false, .deassert .reset]

/-- The events of `RELEASE_BUS(reset)` with `n` failed samples (R95, R96). -/
def releaseEvents (c : Params) (reset : Bool) (n : Nat) : List Event :=
  floatEvents ++ (if reset then pulseEvents c else []) ++ [Event.deassert .busreq] ++
    List.replicate n (Event.sampleSig .busack false) ++ [Event.sampleSig .busack true]

/-- The events of one period of the square wave (R132). -/
def periodEvents (r : Quantity) : List Event :=
  [.clk false, .sleep (1 / (2 * r)) false, .clk true, .sleep (1 / (2 * r)) false]

/-- The events of a period of the square wave that a cancellation cuts, by the boundaries passed in it: its two
`ClkOut` have one each, its two sleeps two (R132, R192). -/
def cutPeriod (r : Quantity) : Nat → List Event
  | 0 => []
  | 1 => [.clk false]
  | 2 => [.clk false, .sleep (1 / (2 * r)) true]
  | 3 => [.clk false, .sleep (1 / (2 * r)) false]
  | 4 => [.clk false, .sleep (1 / (2 * r)) false, .clk true]
  | _ => [.clk false, .sleep (1 / (2 * r)) false, .clk true, .sleep (1 / (2 * r)) true]

/-- The events of `SLOW_CLOCK` before a cancellation that is raised at the boundary after `m` others (R132, R192). -/
def slowEvents (r : Quantity) : Nat → List Event
  | 0 => []
  | m + 1 => Event.deassert .clken :: ((List.replicate (m / 6) (periodEvents r)).flatten ++ cutPeriod r (m % 6))

/-- The events of `M1_RELEASE_WAIT` with `n` failed samples (R144). -/
def levelEvents (n : Nat) : List Event :=
  List.replicate n (Event.sampleSig .m1 true) ++ [Event.sampleSig .m1 false]

/-- The target's processor has begun one more fetch (R52, R59). -/
def fetched : TargetCpu → TargetCpu
  | .sinceReset f => .sinceReset (f + 1)
  | .unspecified => .unspecified

/-- Every direction but those of the groups ADDR, STROBES and DATA is as before (R19, R99). -/
abbrev otherDirectionsKept (s t : State) : Prop :=
  ∀ q : Pin, q.port ≠ .addrHi → q.port ≠ .addrLo → q.port ≠ .dataLo → (∀ g ∈ strobes, q ≠ s.cfg.pins.pin g) →
    getPin t.dir q = getPin s.dir q

/-- What a cycle leaves alone (R111): flags, interrupt-on-change registers, directions, and the target's side but for
its stores. -/
abbrev CycleFrame (s t : State) : Prop := FlagsKept s t ∧ t.ioc = s.ioc ∧ t.dir = s.dir ∧ TargetKept s t

/-- The three interrupt-on-change registers that the controller writes. -/
abbrev IocSetupKept (s t : State) : Prop := t.ioc.en = s.ioc.en ∧ t.ioc.dflt = s.ioc.dflt ∧ t.ioc.cmp = s.ioc.cmp

/-! ### Lines -/

/-- The register access that a line makes, if it makes one. -/
def accessOf : Micro → Option Prim
  | .prim p => some p
  | .readData => some (.samplePort .dataLo)
  | .poll g _ _ _ => some (.sample g)
  | .pollFlag => some (.iocFlag .m1)
  | .sleep _ | .pace _ | .stampT0 | .own _ | .mode _ | .fail _ | .armed | .disarmed | .whileArmed _ | .ret => none

/-- The line is a sleep. -/
def isSleep : Micro → Bool
  | .sleep _ | .pace _ => true
  | .prim _ | .readData | .poll _ _ _ _ | .pollFlag | .stampT0 | .own _ | .mode _ | .fail _ | .armed | .disarmed
  | .whileArmed _ | .ret => false

/-- What a kill leaves: the sequencer idle, what remained of a command dropped, and every register, direction and flag
of the controller as it was (R192, U10). -/
abbrev KillFrame (s t : State) : Prop :=
  t.seq = .idle ∧ t.killed = true ∧ t.out = s.out ∧ t.dir = s.dir ∧ IocSetupKept s t ∧ t.trace = s.trace ∧
    t.own = s.own ∧ t.clockMode = s.clockMode ∧ t.arm = s.arm ∧ t.fault = s.fault ∧
    t.requests = dropRest s.requests

/-- The Hold of R9: `i` records the events `evs`, then `e` for the sample that fails, and waits at its line `k`; the next
step of the waiting machine records `e` once more and waits there again; both states satisfy `keeps`. -/
def HoldsAt (i : Instr) (k : Nat) (evs : List Event) (e : Event) (keeps : State → Prop) (s : State) : Prop :=
  ∃ t u, exec i s = .next t ∧ step t = .next u ∧ t.seq = .running i k ∧ u.seq = t.seq ∧
    t.trace = s.trace ++ evs ++ [e] ∧ u.trace = t.trace ++ [e] ∧ keeps t ∧ keeps u

/-! ### Sequences of operations -/

/-- Some operations one after another, each of which must return without fault. -/
def runAll : List Instr → State → Option State
  | [], s => some s
  | i :: l, s =>
    match exec i s with
    | .next t => if t.seq = .idle ∧ t.raised = none ∧ t.killed = s.killed then runAll l t else none
    | .fault _ => none
    | .refused _ => none

/-- The five cycle operations (R72). -/
def isCycle : Instr → Bool
  | .memRead _ | .memWrite _ _ | .ioRead _ | .ioWrite _ _ | .bankSelect _ => true
  | _ => false

end Sys2Proof.Machine
end

