-- ==== Sys2Proof/Certificates/Slice0/Obligations.lean ====
section
/-! DEFINITION. The statements for the provers: one definition each, in the order of OBLIGATIONS.json. -/

section
open Sys2Proof Sys2Proof.Machine

/-! ### The packed word (30_encoding.md) -/

/-- Words that the spec writes out decode to the commands it says they are (R64's examples; programs P1, P3, P5). -/
def Obligations.SpecWordsDecode : Prop :=
  decode 0x4080005A#32 = .command (.memWrite 0x8000 0x5A) ∧
    decode 0x30800000#32 = .command (.memRead 0x8000) ∧
    decode 0x18000003#32 = .command (.takeBusBank 3) ∧
    decode 0x28000000#32 = .command (.releaseBus true) ∧
    decode 0xB0000A00#32 = .command (.autostep 10) ∧
    decode 0x90000000#32 = .command .singlestepOn ∧
    decode 0x600001FF#32 = .command (.ioWrite 0x0001 0xFF)

/-- Decoding the word of a well-formed command that has a packed form gives the command back, with every operand at
every value (R63). -/
def Obligations.DecodeOfEncode : Prop :=
  ∀ i : Instr, i.WellFormed → i.Packable → decode (encode i) = .command i

/-- A word that decodes is the word of its command: no bit of it is dropped; and the command is well formed (R63,
R71). -/
def Obligations.EncodeOfDecode : Prop :=
  ∀ (w : Word) (i : Instr), decode w = .command i → encode i = w ∧ i.WellFormed ∧ i.Packable

/-- The table of R64: a word spells a command exactly when it matches the command's row, its free fields are the
command's operands and a rate field is not 0; and rows that one word matches are one row. -/
def Obligations.MatchMaskTable : Prop :=
  (∀ (w : Word) (i : Instr), decode w = .command i ↔
    w &&& rowMask i = rowMatch i ∧
      (match i with
        | .takeBusBank b | .bankSelect b => b = (byteField w).toNat
        | .releaseBus r => r = (flagField w == 1#1)
        | .memRead a | .ioRead a | .latchAddress a => a = (hwField w).toNat
        | .memWrite a d | .ioWrite a d => a = (hwField w).toNat ∧ d = (byteField w).toNat
        | .slowClock r | .autostep r => r = ((hwField w).toNat : Quantity) ∧ hwField w ≠ 0#16
        | _ => True)) ∧
    ∀ (w : Word) (i j : Instr), w &&& rowMask i = rowMatch i → w &&& rowMask j = rowMatch j → rowMatch i = rowMatch j

/-- A word that matches no row, or only a row of `SLOW_CLOCK` or `AUTOSTEP` with a rate field of 0, is refused by
the step that takes it, and runs nothing (R71). -/
def Obligations.ReservedWordsRefused : Prop :=
  ∀ (s : State) (w : Word) (rest : List Request), s.seq = .idle → s.requests = .word w :: rest →
    (∀ i : Instr, w &&& rowMask i = rowMatch i →
      (∃ r, i = .slowClock r ∨ i = .autostep r) ∧ hwField w = 0#16) →
    ∃ why, step s = .refused (.reservedWord w why)

/-- A step runs the decoded instruction: with the sequencer idle, a word that decodes to `i`, or the record `i`, is
taken from the caller's requests and run by `exec`; with an operation in progress the step goes on with it (R26,
R62, R187). The queue of requests is the model's (assumption 8). -/
def Obligations.StepRunsDecoded : Prop :=
  (∀ (s : State) (w : Word) (i : Instr) (rest : List Request), s.seq = .idle → s.requests = .word w :: rest →
    decode w = .command i → step s = exec i { s with requests := rest }) ∧
    (∀ (s : State) (i : Instr) (rest : List Request), s.seq = .idle → s.requests = .record i :: rest →
      step s = exec i { s with requests := rest }) ∧
    ∀ (s : State) (i : Instr) (k : Nat), s.seq = .running i k → step s = .next (runOp (programOf s.cfg i) s)

/-! ### Operands and preconditions -/

/-- An operand outside its domain is refused in every state, before any primitive: nothing happens (R61, R70, R183);
operands inside their domains never are. -/
def Obligations.OutOfDomainRefused : Prop :=
  ∀ (i : Instr) (s : State),
    (¬ i.WellFormed → ∃ o v, exec i s = .refused (.invalidArgument o v)) ∧
      (i.WellFormed → ∀ o v, exec i s ≠ .refused (.invalidArgument o v))

/-- The table of R72 under `CLOCK_REQUIRES_ACQUIRED = false`: with operands in their domains and the sequencer idle,
an operation runs where the table says it is defined and is refused, with its state, elsewhere. That the
sequencer is idle is the model's premise (assumption 25). -/
def Obligations.PreconditionTable : Prop :=
  ∀ (i : Instr) (s : State), i.WellFormed → s.seq = .idle → s.cfg.clockRequiresAcquired = false →
    ((∃ t, exec i s = .next t) ↔
      match i with
      | .memRead _ | .memWrite _ _ | .ioRead _ | .ioWrite _ _ | .bankSelect _ => s.own = .acquired
      | .normalClock => s.arm = .disarmed
      | .slowClock _ => s.arm = .disarmed ∧ s.clockMode = .hardwareFree
      | .singlestepOn => s.clockMode = .hardwareFree ∨ s.clockMode = .singleStep
      | .stepWait | .m1ReleaseWait => s.arm = .armed
      | .latchAddress _ | .takeBus | .takeBusBank _ | .releaseBus _ | .reset | .singlestepOff | .autostep _ => True) ∧
    ((¬ ∃ t, exec i s = .next t) → exec i s = .refused (.wrongState (opOf i) s.own s.clockMode s.arm))

/-- The durations of R67: a half-period of `1 / (2 * rate)`, a step period of `1 / rate`, two halves making the
period; at 4 Hz an eighth and a quarter of a second. -/
def Obligations.RateArithmetic : Prop :=
  (∀ r : Quantity, 0 < r → halfPeriod r = 1 / (2 * r) ∧ stepPeriod r = 1 / r ∧
    halfPeriod r + halfPeriod r = stepPeriod r) ∧
    halfPeriod 4 = 1 / 8 ∧ stepPeriod 4 = 1 / 4

/-! ### The AddressEncoder (40_address_encoder.md) -/

/-- R80: bit `i` of the reversed byte is bit `7 - i` of the byte, and the sixteen bytes it lists are the only fixed
points. -/
def Obligations.Rev8Bits : Prop :=
  (∀ (b : Byte) (i : Fin 8), bitAt (rev8 b) i = bitAt b i.rev) ∧
    ∀ b : Byte, rev8 b = b ↔
      b ∈ [0x00#8, 0x18#8, 0x24#8, 0x3C#8, 0x42#8, 0x5A#8, 0x66#8, 0x7E#8, 0x81#8, 0x99#8, 0xA5#8, 0xBD#8, 0xC3#8,
        0xDB#8, 0xE7#8, 0xFF#8]

/-- R81: the reversal is an involution and a bijection, preserves the number of one bits, commutes with NOT, AND, OR
and XOR, and not with addition. -/
def Obligations.Rev8Laws : Prop :=
  (∀ b : Byte, rev8 (rev8 b) = b) ∧ Function.Bijective rev8 ∧
    (∀ b : Byte, ((List.finRange 8).filter (bitAt (rev8 b))).length = ((List.finRange 8).filter (bitAt b)).length) ∧
    (∀ b : Byte, rev8 (~~~b) = ~~~rev8 b) ∧
    (∀ x y : Byte, rev8 (x &&& y) = rev8 x &&& rev8 y ∧ rev8 (x ||| y) = rev8 x ||| rev8 y ∧
      rev8 (x ^^^ y) = rev8 x ^^^ rev8 y) ∧
    rev8 (0x01#8 + 0x01#8) = 0x40#8 ∧ (rev8 0x01#8).toNat + (rev8 0x01#8).toNat = 0x100

/-- `LATCH_ADDRESS(addr)` completes from every idle state (R82, R65): the two events in the order of
`ADDR_PORT_ORDER`, `rev8` of the high byte in `OUT[ADDR.HI]` and of the low byte in `OUT[ADDR.LO]`, and every other
register, flag and direction as it was; with an environment that does nothing the target is as it was too, its stores
included where the invariant holds: elsewhere a write window may have been left open, and acts again at each latch write
(R47, assumption 19). -/
def Obligations.LatchAddressCompletes : Prop :=
  ∀ (s : State) (a : Nat), s.cfg.WellFormed → s.seq = .idle → Sound s → a < 65536 →
    ∃ t, exec (.latchAddress a) s = .next t ∧ Returned t ∧ FlagsKept s t ∧ t.result = s.result ∧
      t.dir = s.dir ∧ IocSetupKept s t ∧ t.out = latched s.out (addrOf a) ∧
      t.trace = s.trace ++ latchEvents s.cfg (addrOf a) ∧
      (Quiet s → TargetKept s t ∧ t.ioc = s.ioc) ∧ (Good s → Quiet s → StoresKept s t)

/-- R83: after `LATCH_ADDRESS(addr)` has returned, not ended by a kill (assumption 14), with ADDR driven by the controller
alone, the target's address lines carry exactly `addr`. -/
def Obligations.AddressOnTheBus : Prop :=
  ∀ (s t : State) (a : Nat), a < 65536 → exec (.latchAddress a) s = .next t → Returned t → NotKilled s t →
    addrDriven t → t.target.ownsBus = false → busAddr t = addrOf a

/-! ### The cycles (42_memory_io_cycles.md) -/

/-- `MEM_READ(addr)` completes in every held state, whatever the environment does on the bus it does not own (R112,
R111, R48): the seven events in the order of R117, the byte sampled returned, that byte the one of the cell the
address reaches (and a drawn one where none answers), and nothing else changed but the address latches. -/
def Obligations.MemReadCompletes : Prop :=
  ∀ (s : State) (a : Nat), Held s → a < 65536 →
    ∃ t v, exec (.memRead a) s = .next t ∧ Returned t ∧ CycleFrame s t ∧ StoresKept s t ∧
      t.result = some v ∧ t.out = latched s.out (addrOf a) ∧
      t.trace = s.trace ++ readEvents s.cfg .mreq (addrOf a) v ∧
      ∀ c w, cellAt s (addrOf a) = some (c, w) → v = s.target.mem.value c

/-- `MEM_WRITE(addr, data)` completes in every held state (R113, R111, R47): the nine events in order; the cell that
the address reaches holds the byte, if it can be written, and every other cell of memory reads as before; nothing
else changes but the latches. -/
def Obligations.MemWriteCompletes : Prop :=
  ∀ (s : State) (a d : Nat), Held s → a < 65536 → d < 256 →
    ∃ t, exec (.memWrite a d) s = .next t ∧ Returned t ∧ CycleFrame s t ∧ t.result = s.result ∧
      t.target.io = s.target.io ∧ t.target.bank = s.target.bank ∧
      t.out = latchedData s.out (addrOf a) (byteOf d) ∧
      t.trace = s.trace ++ writeEvents s.cfg .mreq (addrOf a) (byteOf d) ∧
      ∀ c, t.target.mem.value c =
        if cellAt s (addrOf a) = some (c, true) then byteOf d else s.target.mem.value c

/-- `IO_READ(addr)` completes in every held state (R114, R49): the seven events with IORQ for MREQ, some byte
returned that nothing constrains, one read seen by the IO devices, and nothing else changed but the address
latches. The history of what the devices have seen is the model's field (assumption 20). -/
def Obligations.IoReadCompletes : Prop :=
  ∀ (s : State) (a : Nat), Held s → a < 65536 →
    ∃ t v, exec (.ioRead a) s = .next t ∧ Returned t ∧ CycleFrame s t ∧
      t.target.mem = s.target.mem ∧ t.target.io = s.target.io ++ [.read (addrOf a)] ∧
      t.target.bank = s.target.bank ∧ t.result = some v ∧ t.out = latched s.out (addrOf a) ∧
      t.trace = s.trace ++ readEvents s.cfg .iorq (addrOf a) v

/-- `IO_WRITE(addr, data)` completes in every held state (R115, R49, R50): the nine events with IORQ for MREQ, one
write seen by the IO devices, the bank register set when the address is `BANK_SELECT_PORT`, memory as before. The
history of what the devices have seen, and that an IO write does nothing else to the target, are the model's
(assumption 20). -/
def Obligations.IoWriteCompletes : Prop :=
  ∀ (s : State) (a d : Nat), Held s → a < 65536 → d < 256 →
    ∃ t, exec (.ioWrite a d) s = .next t ∧ Returned t ∧ CycleFrame s t ∧ t.result = s.result ∧
      t.target.mem = s.target.mem ∧ t.target.io = s.target.io ++ [.write (addrOf a) (byteOf d)] ∧
      t.target.bank = (if addrOf a = s.cfg.bankSelectPort then byteOf d else s.target.bank) ∧
      t.out = latchedData s.out (addrOf a) (byteOf d) ∧
      t.trace = s.trace ++ writeEvents s.cfg .iorq (addrOf a) (byteOf d)

/-- `BANK_SELECT(bank)` completes in every held state (R116, R50): it is the nine events of
`IO_WRITE(BANK_SELECT_PORT, bank)`, and the bank register holds `bank`. That the IO devices' history has this one write
more is the model's (assumption 20). -/
def Obligations.BankSelectCompletes : Prop :=
  ∀ (s : State) (b : Nat), Held s → b < 256 →
    ∃ t, exec (.bankSelect b) s = .next t ∧ Returned t ∧ CycleFrame s t ∧ t.result = s.result ∧
      t.target.mem = s.target.mem ∧
      t.target.io = s.target.io ++ [.write s.cfg.bankSelectPort (byteOf b)] ∧ t.target.bank = byteOf b ∧
      t.out = latchedData s.out s.cfg.bankSelectPort (byteOf b) ∧
      t.trace = s.trace ++ writeEvents s.cfg .iorq s.cfg.bankSelectPort (byteOf b)

/-- R120: in one Acquired period, with writable memory at `a`, and with operations in between none of which writes
the cell of `a` or the bank (a target's reset may change its bank, R52), `MEM_WRITE(a, v)` followed by `MEM_READ(a)`
returns `v`, all of them returning without fault, whatever the environment does. -/
def Obligations.WriteThenRead : Prop :=
  ∀ (s t : State) (a v c : Nat) (between : List Instr), Good s → s.own = .acquired → s.seq = .idle →
    a < 65536 → v < 256 → cellAt s (addrOf a) = some (c, true) →
    (∀ i ∈ between,
      match i with
      | .memRead _ | .ioRead _ | .latchAddress _ | .takeBus | .normalClock | .slowClock _ | .singlestepOn
      | .singlestepOff | .autostep _ | .stepWait | .m1ReleaseWait => True
      | .memWrite b _ => cellAt s (addrOf b) ≠ some (c, true)
      | .ioWrite b _ => addrOf b ≠ s.cfg.bankSelectPort
      | .takeBusBank _ | .bankSelect _ | .releaseBus _ | .reset => False) →
    runAll (.memWrite a v :: (between ++ [.memRead a])) s = some t → t.result = some (byteOf v)

/-! ### The BusController (41_bus_controller.md) -/

/-- `RESET()` completes from every idle state (R90): assert, sleep `T_RESET_MIN`, de-assert, and only the latch bit of
RESET is written; from a good state, with an environment that does nothing, the target's memory is unchanged and its
processor is in its reset state (R52; how much of that the model records is its choice, assumption 21). -/
def Obligations.ResetCompletes : Prop :=
  ∀ s : State, s.cfg.WellFormed → s.seq = .idle → Sound s →
    ∃ t, exec .reset s = .next t ∧ Returned t ∧ FlagsKept s t ∧ t.result = s.result ∧ t.dir = s.dir ∧
      IocSetupKept s t ∧ t.out = withSignal s.cfg s.out .reset false ∧
      t.trace = s.trace ++ pulseEvents s.cfg ∧
      (Good s → line t .reset = .deasserted) ∧
      (Good s → Quiet s → StoresKept s t ∧ t.ioc = s.ioc ∧ t.target.ownsBus = s.target.ownsBus ∧
        t.target.m1 = s.target.m1 ∧ t.target.cpu = .sinceReset 0)

/-- `TAKE_BUS(bank?)` completes when the target grants (R91 to R94): from a good state, Released, with inactive strobe
latches, and a target that grants after `n` failed samples, between fetches or when its fetch completes; a target that
is caught needs at least one failed sample, which releases it (R227). BUSREQ is asserted, ADDR and STROBES are driven,
`own` is Acquired; with a bank, one `IO_WRITE` to `BANK_SELECT_PORT` follows; without one no cycle is made. Memory is
unchanged, DATA still floats, and the M1 latch is cleared by the poll. The target's answer stands in the environment's
script, and what the IO devices saw in their history, both the model's (assumptions 9 and 20). -/
def Obligations.TakeBusCompletes : Prop :=
  ∀ (s : State) (bank : Option Nat) (n : Nat) (acts : List EnvAct) (rest : List Slot), Good s → s.own = .released →
    s.seq = .idle → s.target.ownsBus = true →
    (s.target.m1 = false ∧ acts = [.grant] ∨ acts = [.m1Deassert, .grant]) → (halted s = true → 0 < n) →
    strobeLatchesInactive s → Sound s → s.env = List.replicate (n + 1) idleSlot ++ ⟨acts, .ok⟩ :: rest →
    (∀ l ∈ s.cfg.pollLimit, n < l) → (∀ b ∈ bank, b < 256) →
    ∃ t, exec (takeFor bank) s = .next t ∧ Returned t ∧ t.own = .acquired ∧
      t.cfg = s.cfg ∧ t.clockMode = s.clockMode ∧ t.arm = s.arm ∧ t.fault = s.fault ∧ t.result = s.result ∧
      IocSetupKept s t ∧ flagLatched t .m1 = false ∧
      addrDriven t ∧ strobesDriven t ∧ dataFloats t ∧ otherDirectionsKept s t ∧
      t.target.ownsBus = false ∧ t.target.m1 = false ∧ t.target.mem = s.target.mem ∧ t.target.cpu = s.target.cpu ∧
      t.target.bank = bankAfter bank s.target.bank ∧ t.target.io = s.target.io ++ bankAccess s.cfg bank ∧
      t.out = bankLatches s.cfg bank (withSignal s.cfg s.out .busreq true) ∧
      t.trace = s.trace ++ takeEvents n ++ bankEvents s.cfg bank

/-- `TAKE_BUS(bank?)` issued while Acquired performs the same steps (R101, R94): the first sample reads de-asserted, and
but for the cycle of a bank step nothing on the wires and in the target changes. The IO devices' history is the model's
field (assumption 20). -/
def Obligations.TakeBusAgain : Prop :=
  ∀ (s : State) (bank : Option Nat), Held s → (∀ b ∈ bank, b < 256) →
    ∃ t, exec (takeFor bank) s = .next t ∧ Returned t ∧ FlagsKept s t ∧ t.result = s.result ∧ t.dir = s.dir ∧
      t.out = bankLatches s.cfg bank s.out ∧ IocSetupKept s t ∧ TargetKept s t ∧ t.target.mem = s.target.mem ∧
      t.target.io = s.target.io ++ bankAccess s.cfg bank ∧ t.target.bank = bankAfter bank s.target.bank ∧
      t.trace = s.trace ++ takeEvents 0 ++ bankEvents s.cfg bank

/-- The hangs of R98 and R181 in all four waits, without `POLL_LIMIT`, before a target that does nothing: the operation
records what it did, takes one failed sample and waits; a step of the waiting machine takes one more failed sample and
waits on, with no fault. `AckWait`: BUSREQ asserted, the groups floating, `own` Released. `ReturnWait`: BUSREQ
de-asserted, the groups floating. `FlagWait` in `STEP_WAIT` and in `AUTOSTEP`, and `LevelWait` in `M1_RELEASE_WAIT`,
`STEP_WAIT` and `AUTOSTEP`: still Armed. That a step ends there is the model's choice (assumption 10). -/
def Obligations.UnansweredWaitsHold : Prop :=
  (∀ (s : State) (bank : Option Nat), Good s → s.own = .released → s.seq = .idle → s.target.ownsBus = true →
    s.env = [] → s.cfg.pollLimit = none → (∀ b ∈ bank, b < 256) →
    HoldsAt (takeFor bank) 1 [.assert .busreq] (.sampleSig .busack true)
      (fun x => line x .busreq = .asserted ∧ x.own = .released ∧ x.fault = none ∧ x.dir = s.dir ∧
        x.target.ownsBus = true ∧ StoresKept s x) s) ∧
    (∀ (s : State) (reset : Bool), Held s → s.env = [] → s.cfg.pollLimit = none →
      HoldsAt (.releaseBus reset) (if reset then 8 else 5)
        (floatEvents ++ (if reset then pulseEvents s.cfg else []) ++ [.deassert .busreq]) (.sampleSig .busack false)
        (fun x => line x .busreq = .deasserted ∧ x.own = .released ∧ x.fault = none ∧ addrFloats x ∧ strobesFloat x ∧
          dataFloats x ∧ x.target.ownsBus = false ∧ StoresKept s x) s) ∧
    ∀ s : State, Good s → s.seq = .idle → s.arm = .armed → s.env = [] → s.cfg.pollLimit = none →
      (flagLatched s .m1 = false →
        HoldsAt .stepWait 0 [] (.flag .m1 false) (fun x => FlagsKept s x ∧ x.ioc = s.ioc ∧ TargetKept s x) s ∧
          ∀ r : Quantity, 0 < r → s.cancel = false →
            HoldsAt (.autostep r) 2 [] (.flag .m1 false)
              (fun x => x.arm = .armed ∧ x.fault = none ∧ x.ioc = s.ioc ∧ TargetKept s x) s) ∧
        (s.target.m1 = true →
          HoldsAt .m1ReleaseWait 0 [] (.sampleSig .m1 true) (fun x => FlagsKept s x ∧ TargetKept s x) s ∧
            (flagLatched s .m1 = true →
              HoldsAt .stepWait 1 [.flag .m1 true] (.sampleSig .m1 true) (fun x => FlagsKept s x ∧ TargetKept s x) s ∧
                ∀ r : Quantity, 0 < r → s.cancel = false →
                  HoldsAt (.autostep r) 3 [.flag .m1 true] (.sampleSig .m1 true)
                    (fun x => x.arm = .armed ∧ x.fault = none ∧ TargetKept s x) s))

/-- R100: what each of the two handshake timeouts leaves. `Timeout(AckWait)`: after `POLL_LIMIT` failed samples the
request is withdrawn without another sample, and the groups still float. `Timeout(ReturnWait)`: after `POLL_LIMIT`
failed samples the operation ends with BUSREQ de-asserted and every group floating. -/
def Obligations.TimeoutCleanup : Prop :=
  (∀ (s : State) (bank : Option Nat) (l : Nat), Good s → s.own = .released → s.seq = .idle →
    s.target.ownsBus = true → Quiet s → s.cfg.pollLimit = some l → l < s.env.length → (∀ b ∈ bank, b < 256) →
    ∃ t, exec (takeFor bank) s = .next t ∧ t.seq = .idle ∧ t.fault = some (.timeout .ackWait) ∧ t.own = .released ∧
      t.dir = s.dir ∧ line t .busreq = .deasserted ∧
      t.trace = s.trace ++ [Event.assert .busreq] ++ List.replicate l (Event.sampleSig .busack true) ++
        [Event.deassert .busreq]) ∧
    ∀ (s : State) (reset : Bool) (l : Nat), Held s → Quiet s → s.cfg.pollLimit = some l →
      l + (if reset then 7 else 3) < s.env.length →
      ∃ t, exec (.releaseBus reset) s = .next t ∧ t.seq = .idle ∧ t.fault = some (.timeout .returnWait) ∧
        t.own = .released ∧ addrFloats t ∧ strobesFloat t ∧ dataFloats t ∧ line t .busreq = .deasserted ∧
        t.trace = s.trace ++ floatEvents ++ (if reset then pulseEvents s.cfg else []) ++ [Event.deassert .busreq] ++
          List.replicate l (Event.sampleSig .busack false)

/-- `RELEASE_BUS(reset)` completes when the target takes its bus back (R95 to R97, R52): from a held state, with a
target that resumes after `n` failed samples, at least one where it is caught, since a sample releases it (R227). The
groups float before BUSREQ is de-asserted; with
`reset` the whole pulse stands between, and the processor is in its reset state; memory, IO devices and bank are as
before; no latch changes but that of BUSREQ. The script of the target's answer and the record of its processor are
the model's (assumptions 9 and 21). -/
def Obligations.ReleaseBusCompletes : Prop :=
  ∀ (s : State) (reset : Bool) (n : Nat) (rest : List Slot), Held s → (halted s = true → 0 < n) →
    s.env = List.replicate ((if reset then 8 else 4) + n) idleSlot ++ slotOf .resume :: rest →
    (∀ l ∈ s.cfg.pollLimit, n < l) →
    ∃ t, exec (.releaseBus reset) s = .next t ∧ Returned t ∧ t.own = .released ∧
      t.cfg = s.cfg ∧ t.clockMode = s.clockMode ∧ t.arm = s.arm ∧ t.fault = s.fault ∧ t.result = s.result ∧
      IocSetupKept s t ∧ flagLatched t .m1 = false ∧
      addrFloats t ∧ strobesFloat t ∧ dataFloats t ∧ otherDirectionsKept s t ∧ StoresKept s t ∧
      t.target.ownsBus = true ∧ t.target.m1 = false ∧
      t.target.cpu = (if reset then .sinceReset 0 else s.target.cpu) ∧
      t.out = withSignal s.cfg s.out .busreq false ∧
      t.trace = s.trace ++ releaseEvents s.cfg reset n

/-- R102: `RELEASE_BUS(reset)` issued while Released, the target having its bus, performs the same steps: the groups
float already, BUSREQ is de-asserted already, the first sample reads asserted. Nothing changes but the M1 latch, which
that sample clears (R95 d, R227), so that a caught target is let go, and what a reset pulse does to the target's
processor, as the model records it (assumption 21). -/
def Obligations.ReleaseBusAgain : Prop :=
  ∀ (s : State) (reset : Bool), Good s → s.own = .released → s.seq = .idle → s.target.ownsBus = true → Quiet s →
    ∃ t, exec (.releaseBus reset) s = .next t ∧ Returned t ∧ FlagsKept s t ∧ t.result = s.result ∧ t.dir = s.dir ∧
      t.out = s.out ∧ IocSetupKept s t ∧ flagLatched t .m1 = false ∧ halted t = false ∧ StoresKept s t ∧
      t.target.ownsBus = true ∧ t.target.m1 = s.target.m1 ∧
      t.target.cpu = (if reset then .sinceReset 0 else s.target.cpu) ∧
      t.trace = s.trace ++ releaseEvents s.cfg reset 0

/-- R99: `TAKE_BUS(bank?)`, any number of cycle operations and `RELEASE_BUS(reset?)`, all returning without fault,
leave the six direction registers as they were, in every state with `own` Released, the groups floating and no kill so
far, whatever the environment does; an operation that a kill ends has not completed (assumption 14). -/
def Obligations.HandshakeSymmetry : Prop :=
  ∀ (s t : State) (bank : Option Nat) (cycles : List Instr) (reset : Bool), s.cfg.WellFormed → s.killed = false → s.own = .released →
    addrFloats s → strobesFloat s → dataFloats s → (∀ i ∈ cycles, isCycle i = true) →
    runAll (takeFor bank :: (cycles ++ [.releaseBus reset])) s = some t → t.dir = s.dir

/-- R226 bounded: on an acquisition with any strobe latches, with or without a bank, the one cell of memory that may change
is the one at the address that the address latches hold, under the bank selected before; with MREQ's or WR's latch
inactive none does; the IO devices see accesses at that address only, at most two, and then the write of the bank step;
and the strobe latches are inactive afterwards. That a device reacts when its window opens, and to a read as well as to a
write, is the model's choice (assumption 19), and so are the history of what the IO devices saw (assumption 20) and, where
`PINMAP` spreads the strobes over several ports, the one indivisible write that makes all four outputs (assumption 37). The
target grants between fetches or when its fetch completes; one that is caught needs a failed sample first (R227). -/
def Obligations.FirstAcquisitionGlitch : Prop :=
  ∀ (s : State) (bank : Option Nat) (n : Nat) (acts : List EnvAct) (rest : List Slot), Good s → s.own = .released →
    s.seq = .idle → s.target.ownsBus = true →
    (s.target.m1 = false ∧ acts = [.grant] ∨ acts = [.m1Deassert, .grant]) → (halted s = true → 0 < n) → Sound s →
    s.env = List.replicate (n + 1) idleSlot ++ ⟨acts, .ok⟩ :: rest →
    (∀ l ∈ s.cfg.pollLimit, n < l) → (∀ b ∈ bank, b < 256) →
    ∃ t seen, exec (takeFor bank) s = .next t ∧ Returned t ∧ t.own = .acquired ∧ strobeLatchesInactive t ∧
      (∀ c, cellAt s (rev8 s.out.addrHi ++ rev8 s.out.addrLo) ≠ some (c, true) →
        t.target.mem.value c = s.target.mem.value c) ∧
      (latchAt s .mreq false ∨ latchAt s .wr false → t.target.mem = s.target.mem) ∧
      t.target.io = s.target.io ++ seen ++ bankAccess s.cfg bank ∧ seen.length ≤ 2 ∧
      ∀ x ∈ seen, ∃ v, x = .read (rev8 s.out.addrHi ++ rev8 s.out.addrLo) ∨
        x = .write (rev8 s.out.addrHi ++ rev8 s.out.addrLo) v

/-! ### The ClockController (43_clock_controller.md) -/

/-- `NORMAL_CLOCK()` completes while Disarmed (R131): CLKEN is asserted, `clock_mode` is HardwareFree, one event, and
nothing else is written. With an environment that does nothing the target is as it was, its stores included where the
invariant holds: elsewhere a write window may have been left open, and acts again at the write (R47, assumption 19). -/
def Obligations.NormalClockCompletes : Prop :=
  ∀ s : State, s.cfg.WellFormed → s.seq = .idle → Sound s → s.arm = .disarmed →
    (s.cfg.clockRequiresAcquired = false ∨ s.own = .acquired) →
    ∃ t, exec .normalClock s = .next t ∧ Returned t ∧ t.clockMode = .hardwareFree ∧
      RecordsKept s t ∧ t.arm = s.arm ∧ t.result = s.result ∧ t.dir = s.dir ∧
      IocSetupKept s t ∧ t.out = withSignal s.cfg s.out .clken true ∧ t.trace = s.trace ++ [.assert .clken] ∧
      (Quiet s → TargetKept s t ∧ t.ioc = s.ioc) ∧ (Good s → Quiet s → StoresKept s t)

/-- `SLOW_CLOCK(rate)`, never cancelled (R132): it completes `n + 1` periods of the square wave, each half lasting
`1 / (2 * rate)`, and is still in its loop, with CLKEN de-asserted and `clock_mode` HostSlow(rate); only the latches
of CLKEN and CLKOUT are written; the target's memory, IO devices and bank are as they were where the invariant holds,
since elsewhere a write window may have been left open, and acts again at each write (R47, assumption 19). That the step
ends in the loop when the script is used up is the model's choice (assumption 10). -/
def Obligations.SlowClockRuns : Prop :=
  ∀ (s : State) (r : Quantity) (n : Nat), s.cfg.WellFormed → s.seq = .idle → s.cancel = false → 0 < r →
    s.arm = .disarmed → s.clockMode = .hardwareFree →
    (s.cfg.clockRequiresAcquired = false ∨ s.own = .acquired) →
    s.env = List.replicate (6 * n + 7) idleSlot →
    ∃ t, exec (.slowClock r) s = .next t ∧ t.seq = .running (.slowClock r) 2 ∧ t.clockMode = .hostSlow r ∧
      RecordsKept s t ∧ t.arm = s.arm ∧ t.result = s.result ∧ t.dir = s.dir ∧ t.ioc = s.ioc ∧
      TargetKept s t ∧ (Good s → StoresKept s t) ∧
      t.out = withSignal s.cfg (withSignal s.cfg s.out .clken false) .clkout true ∧
      t.trace = s.trace ++ [Event.deassert .clken] ++ (List.replicate (n + 1) (periodEvents r)).flatten

/-- The scoped exit of R133: cancelled at any boundary, before its first primitive or at any point of the loop,
`SLOW_CLOCK` has recorded exactly the events of the boundaries passed, with the sleep that the cancellation struck cut
short; the next event, and the last, is `Assert(CLKEN)`; `clock_mode` is HardwareFree, there is no fault, and the
cancellation is taken; nothing else but `clkout` is written. A cancellation stands in the script (assumption 9) and is
taken as assumption 13 says. -/
def Obligations.SlowClockCancelled : Prop :=
  ∀ (s : State) (r : Quantity) (before rest : List Slot), s.cfg.WellFormed → s.seq = .idle → s.cancel = false →
    0 < r → s.arm = .disarmed → s.clockMode = .hardwareFree →
    (s.cfg.clockRequiresAcquired = false ∨ s.own = .acquired) → Sound s →
    s.env = before ++ slotOf .cancel :: rest → (∀ l ∈ before, EnvAct.cancel ∉ l.acts) →
    ∃ t, exec (.slowClock r) s = .next t ∧ Returned t ∧ t.clockMode = .hardwareFree ∧ t.fault = s.fault ∧
      t.cancel = false ∧ t.own = s.own ∧ t.arm = s.arm ∧ t.dir = s.dir ∧
      latchAt t .clken true ∧
      (∀ q, q ≠ s.cfg.pins.clken → q ≠ s.cfg.pins.clkout → getPin t.out q = getPin s.out q) ∧
      t.trace = s.trace ++ slowEvents r before.length ++ [Event.assert .clken]

/-- R134: between the completion of step 2 of `SLOW_CLOCK` and the start of step 4, CLKEN stays de-asserted: a tick in
the loop leaves it so and goes on in the loop, or to the handler, or is a kill. A pending cancellation is taken by the
next tick, which then performs nothing; a tick that leaves the loop records no event of its own but a sleep that the
cancellation cut short; and the first event after it is `Assert(CLKEN)`. That a pending cancellation is taken before the
access or the sleep at the boundary, whatever befalls that, is assumption 13, and that it goes before a kill there is the
model's choice (assumption 43). -/
def Obligations.HostSlowKeepsClkenOff : Prop :=
  ∀ (s t : State) (r : Quantity) (k : Nat), s.cfg.WellFormed → s.seq = .running (.slowClock r) k → 2 ≤ k → k ≤ 5 →
    line s .clken = .deasserted → t = tick (programOf s.cfg (.slowClock r)) s →
    line t .clken = .deasserted ∧
      ((∃ j, t.seq = .running (.slowClock r) j ∧ 2 ≤ j ∧ j ≤ 6) ∨ (t.seq = .idle ∧ t.killed = true)) ∧
      ((boundary s).1.cancel = true → t.seq = .running (.slowClock r) 6 ∧ t.trace = s.trace) ∧
      (t.seq = .running (.slowClock r) 6 →
        (t.trace = s.trace ∨ ∃ d, t.trace = s.trace ++ [.sleep d true]) ∧
          ((boundary t).2 = .ok →
            (tick (programOf s.cfg (.slowClock r)) t).trace = t.trace ++ [.assert .clken]))

/-! ### The SingleStepController (44_single_step.md) -/

/-- `SINGLESTEP_ON()` completes from HardwareFree and SingleStep (R141): the three writes in order, `arm` Armed,
`clock_mode` SingleStep, and only the three bits of M1 written. With an environment that does nothing the target and the
latch are as they were, the target's stores included where the invariant holds: elsewhere a write window may have been
left open, and acts again at each write (R47, assumption 19). -/
def Obligations.SinglestepOnCompletes : Prop :=
  ∀ s : State, s.cfg.WellFormed → s.seq = .idle → Sound s →
    (s.clockMode = .hardwareFree ∨ s.clockMode = .singleStep) →
    ∃ t, exec .singlestepOn s = .next t ∧ Returned t ∧ t.arm = .armed ∧ t.clockMode = .singleStep ∧
      RecordsKept s t ∧ t.result = s.result ∧ t.dir = s.dir ∧ t.out = s.out ∧
      t.ioc.cmp = setBit s.ioc.cmp s.cfg.pins.m1.bit true ∧
      t.ioc.dflt = setBit s.ioc.dflt s.cfg.pins.m1.bit (!assertedLevel s.cfg .m1) ∧
      t.ioc.en = setBit s.ioc.en s.cfg.pins.m1.bit true ∧
      t.trace = s.trace ++ [.ioc .m1 .cmp true, .ioc .m1 .dflt (!assertedLevel s.cfg .m1), .ioc .m1 .en true] ∧
      (Quiet s → TargetKept s t ∧ t.ioc.flag = s.ioc.flag) ∧ (Good s → Quiet s → StoresKept s t)

/-- `SINGLESTEP_OFF()` completes from every idle state (R142): one write, the enable and the latch bit of M1 clear,
`arm` Disarmed, `clock_mode` HardwareFree where it was SingleStep, and the target no longer halted. With an environment
that does nothing the target is as it was, its stores included where the invariant holds: elsewhere a write window may
have been left open, and acts again at the write (R47, assumption 19). -/
def Obligations.SinglestepOffCompletes : Prop :=
  ∀ s : State, s.cfg.WellFormed → s.seq = .idle → Sound s →
    ∃ t, exec .singlestepOff s = .next t ∧ Returned t ∧ t.arm = .disarmed ∧ halted t = false ∧
      t.clockMode = (if s.clockMode = .singleStep then .hardwareFree else s.clockMode) ∧
      RecordsKept s t ∧ t.result = s.result ∧ t.dir = s.dir ∧ t.out = s.out ∧
      t.ioc.cmp = s.ioc.cmp ∧ t.ioc.dflt = s.ioc.dflt ∧
      t.ioc.en = setBit s.ioc.en s.cfg.pins.m1.bit false ∧
      t.ioc.flag = setBit s.ioc.flag s.cfg.pins.m1.bit false ∧
      t.trace = s.trace ++ [.ioc .m1 .en false] ∧
      (Quiet s → TargetKept s t) ∧ (Good s → Quiet s → StoresKept s t)

/-- `M1_RELEASE_WAIT()` completes (R144): with M1 asserted, `n` samples read asserted (at least one where the target is
caught, since the first releases it) until the fetch completes; with M1 de-asserted the first sample ends it. Every
sample clears the M1 latch (R24), and nothing else changes; that it clears the latches of all the pins of the port is
deduced (assumption 23). -/
def Obligations.M1ReleaseWaitCompletes : Prop :=
  ∀ (s : State) (n : Nat) (rest : List Slot), Good s → s.seq = .idle → s.arm = .armed → Sound s →
    (∀ l ∈ s.cfg.pollLimit, n < l) →
    (s.target.m1 = true ∧ (halted s = true → 0 < n) ∧
        s.env = List.replicate n idleSlot ++ slotOf .m1Deassert :: rest ∨
      s.target.m1 = false ∧ n = 0 ∧ Quiet s) →
    ∃ t, exec .m1ReleaseWait s = .next t ∧ Returned t ∧ FlagsKept s t ∧ t.result = s.result ∧ t.dir = s.dir ∧
      t.out = s.out ∧ IocSetupKept s t ∧ t.ioc.flag = 0x00#8 ∧ StoresKept s t ∧ t.target.m1 = false ∧
      t.target.ownsBus = s.target.ownsBus ∧ t.target.cpu = s.target.cpu ∧
      t.trace = s.trace ++ levelEvents n

/-- `STEP_WAIT()` completes (R145), from each of the states in which the target can be. Not caught: after `k` flag reads
without a fetch the target begins one, having finished the one in progress if there is one, and is caught. Caught already:
the first flag read finds it (R140). In both, `n` samples release it and read asserted, and the fetch completes. With the
latch set and M1 de-asserted, one flag read and one sample end it (assumption 35). That a sample clears the latches of all
the pins of the port is deduced (assumption 23); that the model counts fetches since a reset is its choice (assumption
21). -/
def Obligations.StepWaitCompletes : Prop :=
  ∀ (s : State) (k n : Nat) (acts : List EnvAct) (rest : List Slot) (cpu : TargetCpu), Good s → s.seq = .idle →
    s.arm = .armed → Sound s → (∀ l ∈ s.cfg.pollLimit, k < l ∧ n < l) →
    (flagLatched s .m1 = false ∧ s.target.ownsBus = true ∧ 0 < n ∧ cpu = fetched s.target.cpu ∧
        (s.target.m1 = false ∧ acts = [.m1Assert] ∨ acts = [.m1Deassert, .m1Assert]) ∧
        s.env = List.replicate k idleSlot ++
          ⟨acts, .ok⟩ :: (List.replicate n idleSlot ++ slotOf .m1Deassert :: rest) ∨
      flagLatched s .m1 = true ∧ s.target.m1 = true ∧ k = 0 ∧ 0 < n ∧ cpu = s.target.cpu ∧
        s.env = idleSlot :: (List.replicate n idleSlot ++ slotOf .m1Deassert :: rest) ∨
      flagLatched s .m1 = true ∧ s.target.m1 = false ∧ k = 0 ∧ n = 0 ∧ cpu = s.target.cpu ∧ Quiet s) →
    ∃ t, exec .stepWait s = .next t ∧ Returned t ∧ FlagsKept s t ∧ t.result = s.result ∧ t.dir = s.dir ∧
      t.out = s.out ∧ IocSetupKept s t ∧ t.ioc.flag = 0x00#8 ∧ StoresKept s t ∧ t.target.m1 = false ∧
      t.target.ownsBus = s.target.ownsBus ∧ t.target.cpu = cpu ∧
      t.trace = s.trace ++ List.replicate k (Event.flag .m1 false) ++ [Event.flag .m1 true] ++ levelEvents n

/-- `AUTOSTEP(rate)` while Disarmed performs no iteration: its handler, `SINGLESTEP_OFF`, runs and it returns (R146
corner case a): the enable and the latch bit of M1 are clear, `clock_mode` is HardwareFree where it was SingleStep, and
every other register and flag is as it was, `IOC_CMP` and `IOC_DEF` among them. With an environment that does nothing the
target is as it was, its stores included where the invariant holds: elsewhere a write window may have been left open, and
acts again at the write (R47, assumption 19). -/
def Obligations.AutostepDisarmed : Prop :=
  ∀ (s : State) (r : Quantity), s.cfg.WellFormed → s.seq = .idle → s.arm = .disarmed → Sound s → 0 < r →
    ∃ t, exec (.autostep r) s = .next t ∧ Returned t ∧ t.arm = .disarmed ∧
      t.clockMode = (if s.clockMode = .singleStep then .hardwareFree else s.clockMode) ∧
      RecordsKept s t ∧ t.result = s.result ∧ t.dir = s.dir ∧ t.out = s.out ∧
      t.ioc.cmp = s.ioc.cmp ∧ t.ioc.dflt = s.ioc.dflt ∧
      t.ioc.en = setBit s.ioc.en s.cfg.pins.m1.bit false ∧
      t.ioc.flag = setBit s.ioc.flag s.cfg.pins.m1.bit false ∧ t.trace = s.trace ++ [.ioc .m1 .en false] ∧
      (Quiet s → TargetKept s t) ∧ (Good s → Quiet s → StoresKept s t)

/-- `AUTOSTEP(rate)` while Armed makes a step and completes when it is cancelled (R146 to R148): the target is caught
at a fetch, or is caught already, found, released and finishes it; the pacing sleep of `1 / rate` is cut short by the cancellation; the
handler disarms. -/
def Obligations.AutostepStepsThenCancelled : Prop :=
  ∀ (s : State) (r : Quantity) (first : Slot) (rest : List Slot), Good s → s.seq = .idle → s.arm = .armed → Sound s →
    s.cancel = false → 0 < r →
    (s.target.ownsBus = true ∧ s.target.m1 = false ∧ flagLatched s .m1 = false ∧ first = slotOf .m1Assert ∨
      s.target.m1 = true ∧ flagLatched s .m1 = true ∧ first = idleSlot) →
    s.env = first :: idleSlot :: slotOf .m1Deassert :: idleSlot :: slotOf .cancel :: rest →
    (∀ l ∈ s.cfg.pollLimit, 1 < l) →
    ∃ t, exec (.autostep r) s = .next t ∧ Returned t ∧ t.arm = .disarmed ∧ t.clockMode = .hardwareFree ∧
      t.cancel = false ∧ t.fault = s.fault ∧ t.own = s.own ∧ t.dir = s.dir ∧ t.out = s.out ∧ halted t = false ∧
      m1Bit t t.ioc.en = false ∧ t.t0 = s.now ∧ t.result = s.result ∧
      t.trace = s.trace ++
        [.flag .m1 true, .sampleSig .m1 true, .sampleSig .m1 false, .sleep (1 / r) true, .ioc .m1 .en false]

/-- R147: however `AUTOSTEP` ends (cancelled at any point, a poll's timeout, an abort in its loop, not armed), and
whatever the environment does, its last event is `EvIoc(M1, en, 0)` and the controller is Disarmed with the target
released, unless that very write aborts or a kill ends it, which an earlier kill does not (assumption 14). -/
def Obligations.AutostepAlwaysDisarms : Prop :=
  ∀ (s t : State) (r : Quantity), s.cfg.WellFormed → exec (.autostep r) s = .next t → t.seq = .idle →
    NotKilled s t →
    t.raised ≠ some (.transportAbort (.iocConfig .m1 .en false) ⟨.singlestepOff, 1, 0⟩) →
    (∃ evs, t.trace = s.trace ++ evs ++ [Event.ioc .m1 .en false]) ∧ t.arm = .disarmed ∧
      m1Bit t t.ioc.en = false ∧ halted t = false ∧ t.clockMode ≠ .singleStep

/-- Pacing (R148, R67): the sleep of step (c) asks for what remains of the period since `t0`, and for 0 when nothing
remains, with its event recorded all the same; when it returns, the iteration has lasted at least the period. -/
def Obligations.AutostepPacing : Prop :=
  ∀ (s t : State) (r : Quantity), s.seq = .running (.autostep r) 4 → Sound s → s.cancel = false → 0 < r →
    (∀ l ∈ s.env, EnvAct.cancel ∉ l.acts) → t = tick (programOf s.cfg (.autostep r)) s →
    t.seq = .running (.autostep r) 0 ∧ s.t0 + 1 / r ≤ t.now ∧ t.t0 = s.t0 ∧
      t.trace = s.trace ++ [.sleep (max 0 (1 / r - ((boundary s).1.now - s.t0))) false]

/-- The M1 latch (R24, R25, R59): a fetch sets it exactly where `IOC_EN` and `IOC_CMP` of M1 are set, and it is then set
whatever it was; while the target is caught no act of the target changes anything. That the latch is set whatever
`IOC_DEF` holds is deduced (assumption 23), and that a caught target cannot grant or resume is too (assumption 15). -/
def Obligations.M1Latch : Prop :=
  (∀ s : State, s.target.ownsBus = true → s.target.m1 = false → canRun s = true →
    (applyAct s .m1Assert).target.m1 = true ∧
      flagLatched (applyAct s .m1Assert) .m1 =
        ((m1Bit s s.ioc.en && m1Bit s s.ioc.cmp) || flagLatched s .m1)) ∧
    ∀ (s : State) (a : EnvAct), halted s = true → asserts s .reset = false →
      (match a with
        | .int _ | .clk _ | .cancel | .user _ | .elapse _ => True
        | _ => applyAct s a = s)

/-- R24 and R227: every sample of a signal on the port that carries M1, and every `SamplePort` of it, clears the latch
whatever M1 reads, BUSACK's and INT's included where they share that port; sampling another port, or a signal on one,
clears nothing, and neither does `IocFlag`. -/
def Obligations.SampleClearsLatch : Prop :=
  ∀ s : State,
    (∀ g, (s.cfg.pins.pin g).port = s.cfg.pins.m1.port → flagLatched (perform (.sample g) s) .m1 = false) ∧
      flagLatched (perform (.samplePort s.cfg.pins.m1.port) s) .m1 = false ∧
      (∀ g, (s.cfg.pins.pin g).port ≠ s.cfg.pins.m1.port → (perform (.sample g) s).ioc = s.ioc) ∧
      (∀ p, p ≠ s.cfg.pins.m1.port → (perform (.samplePort p) s).ioc = s.ioc) ∧
      ∀ g, (perform (.iocFlag g) s).ioc = s.ioc

/-- R182 on the step waits. A `FlagWait` that times out in a bare `STEP_WAIT` does no cleanup; in `AUTOSTEP` the scoped
exit disarms. A `LevelWait` that times out does no cleanup in a bare `M1_RELEASE_WAIT` and in `STEP_WAIT`; in `AUTOSTEP`
the scoped exit disarms. In all of them `fault` is set and the operation ends. -/
def Obligations.StepTimeouts : Prop :=
  ∀ (s : State) (r : Quantity) (l : Nat), Good s → s.seq = .idle → s.arm = .armed → Quiet s →
    s.cfg.pollLimit = some l →
    (flagLatched s .m1 = false → l ≤ s.env.length →
      (∃ t, exec .stepWait s = .next t ∧ t.seq = .idle ∧ t.fault = some (.timeout .flagWait) ∧ t.arm = .armed ∧
        t.ioc = s.ioc ∧ t.trace = s.trace ++ List.replicate l (Event.flag .m1 false)) ∧
      (0 < r → s.cancel = false →
        ∃ t, exec (.autostep r) s = .next t ∧ t.seq = .idle ∧ t.fault = some (.timeout .flagWait) ∧
          t.arm = .disarmed ∧ t.clockMode = .hardwareFree ∧
          t.trace = s.trace ++ List.replicate l (Event.flag .m1 false) ++ [Event.ioc .m1 .en false])) ∧
    (s.target.m1 = true → l ≤ s.env.length →
      ∃ t, exec .m1ReleaseWait s = .next t ∧ t.seq = .idle ∧ t.fault = some (.timeout .levelWait) ∧ t.arm = .armed ∧
        t.clockMode = .singleStep ∧ IocSetupKept s t ∧
        t.trace = s.trace ++ List.replicate l (Event.sampleSig .m1 true)) ∧
    (s.target.m1 = true → flagLatched s .m1 = true → l < s.env.length →
      (∃ t, exec .stepWait s = .next t ∧ t.seq = .idle ∧ t.fault = some (.timeout .levelWait) ∧ t.arm = .armed ∧
        t.clockMode = .singleStep ∧ IocSetupKept s t ∧
        t.trace = s.trace ++ [Event.flag .m1 true] ++ List.replicate l (Event.sampleSig .m1 true)) ∧
      (0 < r → s.cancel = false →
        ∃ t, exec (.autostep r) s = .next t ∧ t.seq = .idle ∧ t.fault = some (.timeout .levelWait) ∧
          t.arm = .disarmed ∧ t.clockMode = .hardwareFree ∧
          t.trace = s.trace ++ [Event.flag .m1 true] ++ List.replicate l (Event.sampleSig .m1 true) ++
            [Event.ioc .m1 .en false]))

/-! ### Faults, cancellation, kills (60_exceptions.md) -/

/-- R184 at every register access, a write, a read of the data port, a sample of a poll or a flag read: with the transport
failing it, no event is appended, the fault names the primitive and its position, and the operation ends there with no
cleanup but the scoped exit that `SLOW_CLOCK` and `AUTOSTEP` have; where none of the access took effect, no latch, no
direction and no interrupt-on-change setting changes. How much of an access took effect is counted as assumption 18 says;
`raised` is the model's field (assumption 11), and which operation's line the position names is its choice (assumption
31). -/
def Obligations.TransportAbortStops : Prop :=
  ∀ (s t : State) (i : Instr) (k n : Nat) (l : ProgLine) (p : Prim), s.seq = .running i k →
    (programOf s.cfg i)[k]? = some l → accessOf l.micro = some p → (boundary s).2 = .abort n →
    (cancellable s.seq && (boundary s).1.cancel) = false → t = tick (programOf s.cfg i) s →
    t.trace = s.trace ∧ t.fault = some (.transportAbort p l.pos) ∧ t.raised = t.fault ∧
      t.own = s.own ∧ t.clockMode = s.clockMode ∧ t.arm = s.arm ∧
      (n = 0 → t.out = s.out ∧ t.dir = s.dir ∧ IocSetupKept s t) ∧
      t.seq = (match i with
        | .slowClock _ => if k < 6 then .running i 6 else .idle
        | .autostep _ => if k < 5 then .running i 5 else .idle
        | _ => .idle)

/-- R113 and R184: a `MEM_WRITE` whose `Assert(MREQ)` aborts leaves DATA driving and WR asserted, with the first five
events recorded; whether MREQ's latch was written is the environment's to say (assumption 18). -/
def Obligations.AbortedWriteLeavesBusDriven : Prop :=
  ∀ (s : State) (a d n : Nat) (rest : List Slot), Good s → s.own = .acquired → s.seq = .idle → a < 65536 → d < 256 →
    s.cfg.transportMayFail = true → s.env = List.replicate 5 idleSlot ++ ⟨[], .abort n⟩ :: rest →
    ∃ t, exec (.memWrite a d) s = .next t ∧ t.seq = .idle ∧
      t.fault = some (.transportAbort (.assert .mreq) ⟨.memWrite, 3, 0⟩) ∧ t.own = .acquired ∧ dataDriven t ∧
      line t .wr = .asserted ∧ (line t .mreq = .asserted ↔ 0 < n) ∧
      t.trace = s.trace ++ latchEvents s.cfg (addrOf a) ++
        [Event.drive .data, Event.latch .dataLo (byteOf d), Event.assert .wr] ∧
      (n = 0 → t.target.mem = s.target.mem)

/-- R186: once `fault` is set no step clears it. -/
def Obligations.FaultsAreSticky : Prop :=
  ∀ s t : State, step s = .next t → s.fault.isSome = true → t.fault.isSome = true

/-- R184: with `TRANSPORT_MAY_FAIL = false` no step raises a `TransportAbort`. -/
def Obligations.ReliableTransportNeverAborts : Prop :=
  ∀ (s t : State), s.cfg.transportMayFail = false → step s = .next t →
    ∀ p pos, t.fault = some (.transportAbort p pos) → s.fault = some (.transportAbort p pos)

/-- R192: the fourteen operations other than `SLOW_CLOCK` and `AUTOSTEP` take no cancellation, whether `exec` runs one or a
step goes on with one that waits: a cancellation that is pending before, or that the environment raises at a boundary
that it used, is pending after; one that is raised while the operation runs as the handler of a command's scope is the
exception of R193. The pending flag, and the script, are the model's (assumptions 13 and 9), and so is that it outlives a
kill (assumption 42). -/
def Obligations.OthersDeferCancellation : Prop :=
  ∀ (i : Instr) (s t : State), (∀ r, i ≠ .slowClock r ∧ i ≠ .autostep r) →
    exec i s = .next t ∨ (∃ k, s.seq = .running i k ∧ step s = .next t) →
    (s.cancel = true → t.cancel = true) ∧
      ∀ used : List Slot, s.env = used ++ t.env → commandHandler s.requests = false →
        (∃ l ∈ used, EnvAct.cancel ∈ l.acts) → t.cancel = true

/-- R192, U10: a kill runs no handler: at the boundary before a register access or the arming, before a sleep or inside one, the
registers, the directions and the controller's flags stay as they were, no event is appended, the sequencer is idle and
what remained of a command is dropped. The record of a kill is the model's field (assumption 14), and that a cancellation at
the same boundary goes before it is its choice (assumption 43). -/
def Obligations.KillRunsNoHandler : Prop :=
  ∀ (s t : State) (i : Instr) (k : Nat) (l : ProgLine), s.seq = .running i k →
    (programOf s.cfg i)[k]? = some l → t = tick (programOf s.cfg i) s →
    (cancellable s.seq && (boundary s).1.cancel) = false →
    ((accessOf l.micro).isSome = true ∨ isSleep l.micro = true ∨ l.micro = .armed → (boundary s).2 = .kill →
      KillFrame s t) ∧
      (isSleep l.micro = true → (boundary s).2 ≠ .kill → (boundary (boundary s).1).2 = .kill →
        (cancellable s.seq && (boundary (boundary s).1).1.cancel) = false → KillFrame s t)

/-! ### Whole-machine rules (10_state.md, 70_reset_and_hazards.md) -/

/-- R195, R21, R27, R28: only these lines change a mode: `own`, step 4 of `TAKE_BUS` and step 1 of `RELEASE_BUS`; `arm`,
step 4 of `SINGLESTEP_ON` and step 3 of `SINGLESTEP_OFF`; `clock_mode`, those two, step 2 of `NORMAL_CLOCK`, and
steps 2 and 5 of `SLOW_CLOCK`. -/
def Obligations.OnlyTheseLinesChangeModes : Prop :=
  ∀ (s t : State) (i : Instr) (k : Nat), s.seq = .running i k → t = tick (programOf s.cfg i) s →
    (t.own ≠ s.own → ∃ l, (programOf s.cfg i)[k]? = some l ∧
      (l.pos = ⟨.takeBus, 4, 0⟩ ∧ t.own = .acquired ∨ l.pos = ⟨.releaseBus, 1, 0⟩ ∧ t.own = .released)) ∧
    (t.arm ≠ s.arm → ∃ l, (programOf s.cfg i)[k]? = some l ∧
      (l.pos = ⟨.singlestepOn, 4, 0⟩ ∧ t.arm = .armed ∨ l.pos = ⟨.singlestepOff, 3, 0⟩ ∧ t.arm = .disarmed)) ∧
    (t.clockMode ≠ s.clockMode → ∃ l, (programOf s.cfg i)[k]? = some l ∧
      l.pos ∈ ([⟨.normalClock, 2, 0⟩, ⟨.slowClock, 2, 0⟩, ⟨.slowClock, 5, 0⟩, ⟨.singlestepOn, 4, 0⟩,
        ⟨.singlestepOff, 3, 0⟩] : List Pos))

/-- No step changes the parameters, and every step only appends to the trace (00_scope.md section 5, R6, R7). That the
parameters stand in the state is the model's choice (assumption 1). -/
def Obligations.TraceOnlyGrows : Prop :=
  ∀ s t : State, step s = .next t → t.cfg = s.cfg ∧ ∃ evs, t.trace = s.trace ++ evs

/-- R23, R189: no step writes the bits of other pins in `IOC_EN`, `IOC_DEF` and `IOC_CMP`, and none sets another pin's
bit of `IOC_FLAG`. -/
def Obligations.OtherPinsNeverInterrupt : Prop :=
  ∀ (s t : State) (j : Fin 8), step s = .next t → j ≠ s.cfg.pins.m1.bit →
    bitAt t.ioc.en j = bitAt s.ioc.en j ∧ bitAt t.ioc.dflt j = bitAt s.ioc.dflt j ∧
      bitAt t.ioc.cmp j = bitAt s.ioc.cmp j ∧ (bitAt t.ioc.flag j = true → bitAt s.ioc.flag j = true)

/-- R16, R14: no step, faulted or not, floats BUSREQ, RESET, CLKEN or CLKOUT, or drives M1, CLK, INT or BUSACK; and the
memory keeps its canonical form (the model's, assumption 3). -/
def Obligations.PinRolesKept : Prop :=
  ∀ s t : State, s.cfg.WellFormed → pinRoles s → step s = .next t →
    pinRoles t ∧ (s.target.mem.wf = true → t.target.mem.wf = true)

/-- The values that R210, R211, R212 and R214 give the state after reset; what R214 calls unspecified is left out. -/
def Obligations.ResetState : Prop :=
  let s := State.reset
  s.own = .released ∧ s.target.ownsBus = true ∧ s.clockMode = .hardwareFree ∧ s.arm = .disarmed ∧ s.seq = .idle ∧
    s.fault = none ∧ s.trace = [] ∧ line s .busreq = .deasserted ∧ line s .reset = .deasserted ∧
    line s .clken = .asserted ∧ (∀ g ∈ [Signal.busreq, .reset, .clken, .clkout], isOutput s (s.cfg.pins.pin g) = true) ∧
    addrFloats s ∧ dataFloats s ∧ strobesFloat s ∧ s.dir.dataHi = allPins s.cfg false ∧
    (∀ p ∈ [Port.ctrlA, .ctrlB], ∀ b : Fin 8, isOutput s ⟨p, b⟩ = true →
      (⟨p, b⟩ : Pin) ∈ [s.cfg.pins.busreq, s.cfg.pins.reset, s.cfg.pins.clken, s.cfg.pins.clkout]) ∧
    s.ioc.en = 0x00#8 ∧ s.ioc.cmp = 0x00#8 ∧ s.ioc.flag = 0x00#8 ∧ halted s = false ∧
    sensed s .busack = true ∧ phase s = .released

/-- The invariant holds at reset. -/
def Obligations.GoodAtReset : Prop := Good State.reset

/-- R30, R217 to R219 at every primitive boundary: one tick of the operation in progress keeps the invariant, unless it
raises a fault or is a kill; and where the strobe latches stand as the position asks, which the premise
`StrobeLatchesInactive` of R213 makes true at launch, they stand so after it: I-STROBE without the launch window's
exception. The kill's exclusion, and the canonical form of memory in the invariant, are the model's
(assumptions 14 and 3). -/
def Obligations.GoodKeptByTick : Prop :=
  ∀ (s : State) (i : Instr) (k : Nat), Good s → s.seq = .running i k →
    (tick (programOf s.cfg i) s).fault = none → (tick (programOf s.cfg i) s).killed = false →
    Good (tick (programOf s.cfg i) s) ∧ (strobesAsPlaced s → strobesAsPlaced (tick (programOf s.cfg i) s))

/-- R30 over steps: every step from a state with the invariant that ends without a fault and without a kill ends in a
state with the invariant, and with the strobe latches as the position asks where they stood so before; whole operations,
turns of commands, waits and idle turns alike. The kill's exclusion is the
model's (assumption 14). -/
def Obligations.GoodKeptByStep : Prop :=
  ∀ s t : State, Good s → step s = .next t → t.fault = none → t.killed = false →
    Good t ∧ (strobesAsPlaced s → strobesAsPlaced t)

/-- R20 and R22 in a state with the invariant: no wire of ADDR, DATA or STROBES is in contention; and the handshake phase
says what `own`, BUSREQ and the groups are, row by row of R22's table, DATA floating in every phase but `PhAcquired` and
the target off its bus in `PhSetup` and `PhAcquired`. Where the table has no row the phase is the model's (assumption
32). -/
def Obligations.PhasesAndContention : Prop :=
  ∀ s : State, Good s →
    (∀ q : Pin, (q.port = .addrHi ∨ q.port = .addrLo ∨ q.port = .dataLo ∨ ∃ g ∈ strobes, q = s.cfg.pins.pin g) →
      contention s q = false) ∧
    (phase s = .acquired ↔ s.own = .acquired) ∧
    match phase s with
    | .released | .returning => line s .busreq = .deasserted ∧ addrFloats s ∧ strobesFloat s ∧ dataFloats s
    | .requesting => line s .busreq = .asserted ∧ addrFloats s ∧ strobesFloat s ∧ dataFloats s
    | .setup => line s .busreq = .asserted ∧ dataFloats s ∧ s.target.ownsBus = false
    | .acquired => line s .busreq = .asserted ∧ addrDriven s ∧ strobesDriven s ∧ s.target.ownsBus = false
    | .floated =>
      line s .busreq = .asserted ∧ dataFloats s ∧ ∀ p ∈ releaseAt s.seq, 4 ≤ p.1 → addrFloats s ∧ strobesFloat s

/-! ### The command surface (45_host_commands.md) -/

/-- R164, R162, R42: `loadhex` writes byte `k` at `base + k` and `memdump` and `savehex` read at `base + k`, in ascending
order, inside the frame of R160. That `memdump` prints each byte right after its read is the model's choice (assumption 40), and
that the bytes go to the console (assumption 24). -/
def Obligations.BlockCommandsAscend : Prop :=
  (∀ (base : Nat) (bytes : List Byte) (o : FrameOptions), ∃ body, expand (.loadhex base bytes o) = .steps (framed o body) ∧
    body.length = bytes.length ∧ ∀ (k : Nat) (b : Byte), bytes[k]? = some b → body[k]? = some (.op (.memWrite (base + k) b.toNat))) ∧
    ∀ (base n : Nat) (o : FrameOptions),
      (∃ body, expand (.savehex base n o) = .steps (framed o body) ∧ body.length = n ∧
        ∀ k, k < n → body[k]? = some (.op (.memRead (base + k)))) ∧
      ∃ body, expand (.memdump base n o) = .steps (framed o body) ∧ body.length = 2 * n ∧
        ∀ k, k < n → body[2 * k]? = some (.op (.memRead (base + k))) ∧ body[2 * k + 1]? = some .print

/-- R160 to R173: the expansions of the commands that are straight lines of operations, and what a step makes of each
command. A straight line: the command becomes its expansion; the next operation runs with the rest of the command behind
it; a printing step prints the byte of the last read; after an operation that faulted the rest is abandoned; and with
nothing left the command is done. `iowatch`: `TAKE_BUS`, then reads for ever that print on a change, until a cancellation,
whose release of the bus is free. `autostep`: `SINGLESTEP_ON`, `AUTOSTEP` unless that faulted, and in any case the
`SINGLESTEP_OFF` of the command's scope (R191). `singlestep`: `SINGLESTEP_ON`, then a wait for the user's events, of which
one runs `M1_RELEASE_WAIT`, and `SINGLESTEP_OFF` on every way out. Where an operation of these two is refused, the
`SINGLESTEP_OFF` of the scope runs all the same and then the run ends as the refusal: so an `autostep` with a bad rate.
`showint`: samples of INT that print its transitions,
until a cancellation. How a command stands in the caller's requests is the model's (assumption 24), the free release is
assumption 4, that a cancellation ends `singlestep`, `iowatch` and `showint` where they look at it is assumption 13, and
that `singlestep` looks at it before the user's events, and clears it on a fault too, is assumptions 33 and 36. That a read
prints before the release of the bus is assumption 40, and that operands are checked when each operation is issued, an
`autostep` with a bad rate being refused after it has armed, and that the scope takes in a refused `SINGLESTEP_ON`, is
assumption 41. -/
def Obligations.CommandsExpand : Prop :=
  (∀ (a v : Nat) (r : Quantity) (o : FrameOptions),
    expand .reset = .steps [.op .reset] ∧
      expand (.peek a o) = .steps (framed o [.op (.memRead a), .print]) ∧
      expand (.poke a v o) = .steps (framed o [.op (.memWrite a v)]) ∧
      expand (.ioread a o) = .steps (framed o [.op (.ioRead a), .print]) ∧
      expand (.iowrite a v o) = .steps (framed o [.op (.ioWrite a v)]) ∧
      expand (.slowclock r) = .steps [.op (.slowClock r)] ∧
      framed ⟨none, false, false⟩ [.op (.memRead a)] = [.op .takeBus, .op (.memRead a), .op (.releaseBus false)] ∧
      framed ⟨some 3, true, false⟩ [] = [.op (.takeBusBank 3), .op (.releaseBus true)] ∧
      framed ⟨none, false, true⟩ [] = [.op .takeBus]) ∧
    ∀ (s : State) (rest : List Request), s.seq = .idle →
      (∀ c : HostCommand, (match c with | .iowatch _ _ | .autostep _ | .singlestep => False | _ => True) →
        s.requests = .command c :: rest →
        step s = .next { s with raised := none, requests := .rest (expand c) :: rest }) ∧
      (s.requests = .rest (.steps []) :: rest → step s = .next { s with requests := rest }) ∧
      (∀ l : List CommandStep, s.requests = .rest (.steps (.print :: l)) :: rest →
        (s.raised = none → ∀ v, s.result = some v →
          step s = .next { s with requests := .rest (.steps l) :: rest, console := s.console ++ [.byte v] }) ∧
          (s.raised ≠ none → step s = .next { s with requests := rest })) ∧
      (∀ (i : Instr) (l : List CommandStep), s.requests = .rest (.steps (.op i :: l)) :: rest →
        (s.raised = none → step s = exec i { s with requests := .rest (.steps l) :: rest }) ∧
          (s.raised ≠ none → step s = .next { s with requests := rest })) ∧
      (∀ (a : Nat) (bank : Option Nat), s.requests = .command (.iowatch a bank) :: rest →
        step s = exec (takeFor bank) { s with raised := none, requests := .rest (.watch a none) :: rest }) ∧
      (∀ (a : Nat) (last : Option Byte), s.requests = .rest (.watch a last) :: rest → s.raised = none →
        (s.cancel = false → step s = exec (.ioRead a) { s with requests := .rest (.watched a last) :: rest }) ∧
          (s.cancel = true →
            step s = exec (.releaseBus false) { s with cancel := false, draws := s.draws + 1, requests := rest } ∨
              step s = .next { s with cancel := false, draws := s.draws + 1, requests := rest })) ∧
      (∀ (a : Nat) (last : Option Byte) (v : Byte), s.requests = .rest (.watched a last) :: rest → s.raised = none →
        s.result = some v →
        step s = .next { s with
          requests := .rest (.watch a (some v)) :: rest
          console := s.console ++ (if last = some v then [] else [.byte v]) }) ∧
      (∀ r : Quantity,
        (s.requests = .command (.autostep r) :: rest →
          RunsInScope (s.clockMode = .hardwareFree ∨ s.clockMode = .singleStep) .singlestepOn
            (.autostepArmed r) rest { s with raised := none } (step s)) ∧
        (s.requests = .rest (.autostepArmed r) :: rest →
          (s.raised = none → 0 < r → step s = exec (.autostep r) { s with requests := .rest .autostepEnd :: rest }) ∧
            (s.raised = none → ¬ 0 < r → step s = exec .singlestepOff
              { s with requests := .rest (.handler (some (.invalidArgument .rate r))) :: rest }) ∧
            (s.raised ≠ none → step s = exec .singlestepOff { s with requests := .rest (.handler none) :: rest }))) ∧
      (s.requests = .rest .autostepEnd :: rest →
        step s = exec .singlestepOff { s with requests := .rest (.handler none) :: rest }) ∧
      (s.requests = .rest (.handler none) :: rest → step s = .next { s with requests := rest }) ∧
      (∀ why, s.requests = .rest (.handler (some why)) :: rest → step s = .refused why) ∧
      (s.requests = .command .singlestep :: rest →
        RunsInScope (s.clockMode = .hardwareFree ∨ s.clockMode = .singleStep) .singlestepOn
          .interactive rest { s with raised := none } (step s)) ∧
      (s.requests = .rest .interactive :: rest →
        (s.raised ≠ none ∨ s.cancel = true →
          step s = exec .singlestepOff { s with cancel := false, requests := .rest (.handler none) :: rest }) ∧
        (s.raised = none → s.cancel = false →
          (∀ u, s.users = .advance :: u →
            RunsInScope (s.arm = .armed) .m1ReleaseWait .interactive rest { s with users := u } (step s)) ∧
          (∀ u, s.users = .quit :: u →
            step s = exec .singlestepOff { s with users := u, requests := .rest (.handler none) :: rest }) ∧
          (s.users = [] → ∃ t, step s = .next t ∧ t.seq = .idle ∧ t.trace = s.trace ∧ t.out = s.out ∧ t.dir = s.dir ∧
            ((boundary s).2 ≠ .kill → t.requests = s.requests)))) ∧
      (s.requests = .command .showint :: rest →
        step s = .next { s with raised := none, requests := .rest (.showInt none) :: rest }) ∧
      ∀ last : Option Bool, s.requests = .rest (.showInt last) :: rest →
        (s.cancel = true → step s = .next { s with cancel := false, requests := rest }) ∧
        (s.cancel = false → (boundary s).2 = .ok →
          ∃ t r, step s = .next t ∧ t.seq = .idle ∧ t.requests = .rest (.showInt (some r)) :: rest ∧
            t.trace = s.trace ++ [.sampleSig .int r] ∧ t.out = s.out ∧ t.dir = s.dir ∧ t.own = s.own ∧
            IocSetupKept s t ∧
            t.console = s.console ++ (if last = some (!r) then [.int r] else []))

end
end

