-- ==== Sys2Proof/Laws/Memory.lean ====
section
/-! SUPPORT. The laws of the target's memory: a read after a write, the canonical form, the memory after reset. -/

namespace Sys2Proof.Machine

@[simp] theorem Memory.read_nil (a : Nat) : Memory.read [] a = none := rfl

/-- A read of the cell just written gives the byte written. -/
@[simp] theorem Memory.read_write_same (m : Memory) (a : Nat) (v : Byte) : (m.write a v).read a = some v := by
  induction m with
  | nil => simp [Memory.write, Memory.read]
  | cons h r ih =>
    obtain ⟨k, w⟩ := h
    simp only [Memory.write]
    split
    · simp [Memory.read]
    · split
      · simp [Memory.read]
      · rename_i h1 h2
        simp only [Memory.read, ih, if_neg (Ne.symm h2)]

/-- A write leaves every other cell alone. -/
theorem Memory.read_write_other (m : Memory) {a b : Nat} (v : Byte) (h : b ≠ a) :
    (m.write a v).read b = m.read b := by
  induction m with
  | nil => simp [Memory.write, Memory.read, Ne.symm h]
  | cons x r ih =>
    obtain ⟨k, w⟩ := x
    simp only [Memory.write]
    split
    · simp [Memory.read, Ne.symm h]
    · split
      · rename_i h1 h2
        subst h2
        simp [Memory.read, Ne.symm h]
      · simp only [Memory.read, ih]

theorem Memory.read_write (m : Memory) (a b : Nat) (v : Byte) :
    (m.write a v).read b = if b = a then some v else m.read b := by
  split
  · rename_i h; rw [h]; exact m.read_write_same a v
  · rename_i h; exact m.read_write_other v h

/-- What a cell holds after a write. -/
theorem Memory.value_write (m : Memory) (a b : Nat) (v : Byte) :
    (m.write a v).value b = if b = a then v else m.value b := by
  simp only [Memory.value, Memory.read_write]
  split <;> simp

/-- The first cell of a write to a canonical memory is the written one or the old first one. -/
theorem Memory.wf_cons_write {k a : Nat} (w v : Byte) (r : Memory) (hk : k < a)
    (hw : Memory.wf ((k, w) :: r) = true) (ih : Memory.wf r = true → Memory.wf (r.write a v) = true) :
    Memory.wf ((k, w) :: Memory.write r a v) = true := by
  cases r with
  | nil => simp [Memory.write, Memory.wf, hk]
  | cons y r' =>
    obtain ⟨j, x⟩ := y
    simp only [Memory.wf, Bool.and_eq_true, decide_eq_true_eq] at hw
    have h2 := ih hw.2
    simp only [Memory.write] at h2 ⊢
    split
    · rename_i h
      simp only [if_pos h] at h2
      simp only [Memory.wf, Bool.and_eq_true, decide_eq_true_eq] at h2 ⊢
      exact ⟨hk, h2⟩
    · rename_i h
      simp only [if_neg h] at h2
      split
      · rename_i he
        simp only [if_pos he] at h2
        simp only [Memory.wf, Bool.and_eq_true, decide_eq_true_eq]
        exact ⟨hk, h2⟩
      · rename_i he
        simp only [if_neg he] at h2
        simp only [Memory.wf, Bool.and_eq_true, decide_eq_true_eq]
        exact ⟨hw.1, h2⟩

/-- A write keeps the canonical form. -/
theorem Memory.wf_write (m : Memory) (a : Nat) (v : Byte) (h : m.wf = true) : (m.write a v).wf = true := by
  induction m with
  | nil => simp [Memory.write, Memory.wf]
  | cons x r ih =>
    obtain ⟨k, w⟩ := x
    by_cases hlt : a < k
    · simp [Memory.write, hlt, Memory.wf, h]
    · by_cases he : a = k
      · subst he
        simp only [Memory.write, Nat.lt_irrefl, if_false, if_true]
        cases r with
        | nil => rfl
        | cons y r' => exact h
      · have := Memory.wf_cons_write w v r (by omega : k < a) h ih
        simpa [Memory.write, hlt, he] using this

/-- The one store of the model keeps the canonical form (R47). -/
theorem storeByte_mem_wf (a : Addr) (v : Byte) (s : State) (h : s.target.mem.wf = true) :
    (storeByte a v s).target.mem.wf = true := by
  unfold storeByte
  split
  · exact Memory.wf_write _ _ _ h
  · exact h

/-- No IO access touches the memory. -/
@[simp] theorem ioAccess_mem (x : IoAccess) (s : State) : (ioAccess x s).target.mem = s.target.mem := by
  cases x <;> rfl

/-- The memory after reset has the canonical form. -/
theorem reset_mem_wf : State.reset.target.mem.wf = true := rfl

end Sys2Proof.Machine
end

