-- ==== Sys2Proof/Laws/Pins.lean ====
section
/-! SUPPORT. The laws of ports, bits and pins: what a register write changes and what it leaves. -/

namespace Sys2Proof.Machine

@[simp] theorem Ports.get_set_same (r : Ports) (p : Port) (v : Byte) : (r.set p v).get p = v := by
  cases p <;> rfl

theorem Ports.get_set_other (r : Ports) {p q : Port} (v : Byte) (h : q ≠ p) : (r.set p v).get q = r.get q := by
  cases p <;> cases q <;> first | rfl | exact absurd rfl h

@[simp] theorem Ports.set_get_same (r : Ports) (p : Port) : r.set p (r.get p) = r := by cases p <;> rfl

@[simp] theorem Ports.set_set_same (r : Ports) (p : Port) (v w : Byte) : (r.set p v).set p w = r.set p w := by
  cases p <;> rfl

theorem Ports.set_comm (r : Ports) {p q : Port} (v w : Byte) (h : p ≠ q) :
    (r.set p v).set q w = (r.set q w).set p v := by
  cases p <;> cases q <;> first | rfl | exact absurd rfl h

/-- Two registers that agree at every port are equal. -/
theorem Ports.ext_get {r t : Ports} (h : ∀ p, r.get p = t.get p) : r = t := by
  obtain ⟨a, b, c, d, e, f⟩ := r
  obtain ⟨a', b', c', d', e', f'⟩ := t
  have h1 := h .dataLo; have h2 := h .dataHi; have h3 := h .addrHi
  have h4 := h .addrLo; have h5 := h .ctrlA; have h6 := h .ctrlB
  simp only [Ports.get] at h1 h2 h3 h4 h5 h6
  subst h1 h2 h3 h4 h5 h6
  rfl

/-- A bit write changes its own bit and no other. -/
theorem bitAt_setBit (b : Byte) (i j : Fin 8) (l : Bool) :
    bitAt (setBit b i l) j = if j = i then l else bitAt b j := by
  have hj : j.val < 8 := j.isLt
  have hone : (1#8 <<< i.val).getLsbD j.val = decide (j = i) := by
    simp only [BitVec.getLsbD_shiftLeft, BitVec.getLsbD_one, Fin.ext_iff]
    by_cases hlt : j.val < i.val
    · simp [hlt]; omega
    · simp [hj, hlt]; omega
  unfold bitAt setBit
  cases l
  · simp only [Bool.false_eq_true, if_false, BitVec.getLsbD_and, BitVec.getLsbD_not, hone, hj, decide_true]
    by_cases h : j = i <;> simp [h]
  · simp only [if_true, BitVec.getLsbD_or, hone]
    by_cases h : j = i <;> simp [h]

@[simp] theorem bitAt_setBit_same (b : Byte) (i : Fin 8) (l : Bool) : bitAt (setBit b i l) i = l := by
  simp [bitAt_setBit]

theorem bitAt_setBit_other (b : Byte) {i j : Fin 8} (l : Bool) (h : j ≠ i) :
    bitAt (setBit b i l) j = bitAt b j := by simp [bitAt_setBit, h]

@[simp] theorem bitAt_zero (i : Fin 8) : bitAt 0x00#8 i = false := by revert i; decide

/-- Two bytes that agree at every bit are equal. -/
theorem byte_ext {a b : Byte} (h : ∀ i : Fin 8, bitAt a i = bitAt b i) : a = b :=
  BitVec.eq_of_getLsbD_eq fun i hi => h ⟨i, hi⟩

@[simp] theorem setBit_setBit_same (b : Byte) (i : Fin 8) (l m : Bool) : setBit (setBit b i l) i m = setBit b i m := by
  apply byte_ext
  intro j
  simp only [bitAt_setBit]
  split <;> rfl

theorem setBit_eq_self {b : Byte} {i : Fin 8} {l : Bool} (h : bitAt b i = l) : setBit b i l = b := by
  apply byte_ext
  intro j
  rw [bitAt_setBit]
  split
  · rename_i e; rw [e, h]
  · rfl

/-- A pin write changes its own pin. -/
@[simp] theorem getPin_setPin_same (r : Ports) (q : Pin) (l : Bool) : getPin (setPin r q l) q = l := by
  simp [getPin, setPin]

/-- A pin write leaves every other pin. -/
theorem getPin_setPin_other (r : Ports) {q x : Pin} (l : Bool) (h : x ≠ q) : getPin (setPin r q l) x = getPin r x := by
  obtain ⟨qp, qb⟩ := q
  obtain ⟨xp, xb⟩ := x
  by_cases hp : xp = qp
  · subst hp
    have hb : xb ≠ qb := fun e => h (by rw [e])
    simp [getPin, setPin, bitAt_setBit_other _ l hb]
  · simp [getPin, setPin, Ports.get_set_other _ _ hp]

/-- Writing the level that a pin's latch has changes nothing. -/
theorem setPin_eq_self {r : Ports} {q : Pin} {l : Bool} (h : getPin r q = l) : setPin r q l = r := by
  rw [setPin, setBit_eq_self (by simpa [getPin] using h), Ports.set_get_same]

@[simp] theorem setPin_setPin_same (r : Ports) (q : Pin) (l m : Bool) : setPin (setPin r q l) q m = setPin r q m := by
  simp [setPin]

/-- A pin write leaves every other port. -/
theorem get_setPin_other (r : Ports) {q : Pin} {p : Port} (l : Bool) (h : p ≠ q.port) :
    (setPin r q l).get p = r.get p := by simp [setPin, Ports.get_set_other _ _ h]

/-- A whole-port write leaves the pins of other ports. -/
theorem getPin_set_other (r : Ports) {q : Pin} {p : Port} (v : Byte) (h : q.port ≠ p) :
    getPin (r.set p v) q = getPin r q := by simp [getPin, Ports.get_set_other _ _ h]

/-- Writes to different ports commute. -/
theorem setPin_set_comm (r : Ports) {q : Pin} {p : Port} (l : Bool) (v : Byte) (h : q.port ≠ p) :
    setPin (r.set p v) q l = (setPin r q l).set p v := by
  simp [setPin, Ports.get_set_other _ _ h, Ports.set_comm _ _ _ (Ne.symm h)]

/-- Every bit of a whole-port direction is the bit of that direction (R76). -/
@[simp] theorem bitAt_allPins (c : Params) (o : Bool) (i : Fin 8) : bitAt (allPins c o) i = dirBit c o := by
  unfold allPins dirBit
  cases o <;> cases c.dirInputBit <;> revert i <;> decide

/-- A direction bit says output exactly for an output (R12). -/
@[simp] theorem dirBit_bne (c : Params) (o : Bool) : (dirBit c o != c.dirInputBit) = o := by
  cases o <;> cases h : c.dirInputBit <;> simp [dirBit, h]

/-- A byte is the byte of its bits. -/
@[simp] theorem byteOfBits_bitAt (v : Byte) : byteOfBits (bitAt v) = v := by
  revert v; decide

/-- The byte reversal is an involution (R81). -/
@[simp] theorem rev8_rev8 (b : Byte) : rev8 (rev8 b) = b := by revert b; decide

/-- The two bytes of an address make it again (R42). -/
@[simp] theorem hiByte_append_loByte (a : Addr) : hiByte a ++ loByte a = a := by
  unfold hiByte loByte
  apply BitVec.eq_of_getLsbD_eq
  intro i hi
  simp only [BitVec.getLsbD_append, BitVec.getLsbD_extractLsb']
  by_cases h : i < 8
  · simp [h]
  · have h2 : i - 8 < 8 := by omega
    have h3 : 8 + (i - 8) = i := by omega
    simp [h, h2, h3]

end Sys2Proof.Machine
end

