-- ==== Sys2Proof/Laws/State.lean ====
section
/-! SUPPORT. One lemma per field per named update of the state, each true by rfl, so that no proof unfolds a
record update. -/

namespace Sys2Proof.Machine


/-! ### setOwn -/

@[simp] theorem setOwn_cfg (o : BusOwnership) (s : State) : (setOwn o s).cfg = s.cfg := rfl
@[simp] theorem setOwn_own (o : BusOwnership) (s : State) : (setOwn o s).own = o := rfl
@[simp] theorem setOwn_clockMode (o : BusOwnership) (s : State) : (setOwn o s).clockMode = s.clockMode := rfl
@[simp] theorem setOwn_arm (o : BusOwnership) (s : State) : (setOwn o s).arm = s.arm := rfl
@[simp] theorem setOwn_seq (o : BusOwnership) (s : State) : (setOwn o s).seq = s.seq := rfl
@[simp] theorem setOwn_polls (o : BusOwnership) (s : State) : (setOwn o s).polls = s.polls := rfl
@[simp] theorem setOwn_t0 (o : BusOwnership) (s : State) : (setOwn o s).t0 = s.t0 := rfl
@[simp] theorem setOwn_fault (o : BusOwnership) (s : State) : (setOwn o s).fault = s.fault := rfl
@[simp] theorem setOwn_raised (o : BusOwnership) (s : State) : (setOwn o s).raised = s.raised := rfl
@[simp] theorem setOwn_killed (o : BusOwnership) (s : State) : (setOwn o s).killed = s.killed := rfl
@[simp] theorem setOwn_result (o : BusOwnership) (s : State) : (setOwn o s).result = s.result := rfl
@[simp] theorem setOwn_dir (o : BusOwnership) (s : State) : (setOwn o s).dir = s.dir := rfl
@[simp] theorem setOwn_out (o : BusOwnership) (s : State) : (setOwn o s).out = s.out := rfl
@[simp] theorem setOwn_ioc (o : BusOwnership) (s : State) : (setOwn o s).ioc = s.ioc := rfl
@[simp] theorem setOwn_target (o : BusOwnership) (s : State) : (setOwn o s).target = s.target := rfl
@[simp] theorem setOwn_trace (o : BusOwnership) (s : State) : (setOwn o s).trace = s.trace := rfl
@[simp] theorem setOwn_now (o : BusOwnership) (s : State) : (setOwn o s).now = s.now := rfl
@[simp] theorem setOwn_draws (o : BusOwnership) (s : State) : (setOwn o s).draws = s.draws := rfl
@[simp] theorem setOwn_cancel (o : BusOwnership) (s : State) : (setOwn o s).cancel = s.cancel := rfl
@[simp] theorem setOwn_users (o : BusOwnership) (s : State) : (setOwn o s).users = s.users := rfl
@[simp] theorem setOwn_env (o : BusOwnership) (s : State) : (setOwn o s).env = s.env := rfl
@[simp] theorem setOwn_requests (o : BusOwnership) (s : State) : (setOwn o s).requests = s.requests := rfl
@[simp] theorem setOwn_console (o : BusOwnership) (s : State) : (setOwn o s).console = s.console := rfl

/-! ### setClockMode -/

@[simp] theorem setClockMode_cfg (m : ClockMode) (s : State) : (setClockMode m s).cfg = s.cfg := rfl
@[simp] theorem setClockMode_own (m : ClockMode) (s : State) : (setClockMode m s).own = s.own := rfl
@[simp] theorem setClockMode_clockMode (m : ClockMode) (s : State) : (setClockMode m s).clockMode = m := rfl
@[simp] theorem setClockMode_arm (m : ClockMode) (s : State) : (setClockMode m s).arm = s.arm := rfl
@[simp] theorem setClockMode_seq (m : ClockMode) (s : State) : (setClockMode m s).seq = s.seq := rfl
@[simp] theorem setClockMode_polls (m : ClockMode) (s : State) : (setClockMode m s).polls = s.polls := rfl
@[simp] theorem setClockMode_t0 (m : ClockMode) (s : State) : (setClockMode m s).t0 = s.t0 := rfl
@[simp] theorem setClockMode_fault (m : ClockMode) (s : State) : (setClockMode m s).fault = s.fault := rfl
@[simp] theorem setClockMode_raised (m : ClockMode) (s : State) : (setClockMode m s).raised = s.raised := rfl
@[simp] theorem setClockMode_killed (m : ClockMode) (s : State) : (setClockMode m s).killed = s.killed := rfl
@[simp] theorem setClockMode_result (m : ClockMode) (s : State) : (setClockMode m s).result = s.result := rfl
@[simp] theorem setClockMode_dir (m : ClockMode) (s : State) : (setClockMode m s).dir = s.dir := rfl
@[simp] theorem setClockMode_out (m : ClockMode) (s : State) : (setClockMode m s).out = s.out := rfl
@[simp] theorem setClockMode_ioc (m : ClockMode) (s : State) : (setClockMode m s).ioc = s.ioc := rfl
@[simp] theorem setClockMode_target (m : ClockMode) (s : State) : (setClockMode m s).target = s.target := rfl
@[simp] theorem setClockMode_trace (m : ClockMode) (s : State) : (setClockMode m s).trace = s.trace := rfl
@[simp] theorem setClockMode_now (m : ClockMode) (s : State) : (setClockMode m s).now = s.now := rfl
@[simp] theorem setClockMode_draws (m : ClockMode) (s : State) : (setClockMode m s).draws = s.draws := rfl
@[simp] theorem setClockMode_cancel (m : ClockMode) (s : State) : (setClockMode m s).cancel = s.cancel := rfl
@[simp] theorem setClockMode_users (m : ClockMode) (s : State) : (setClockMode m s).users = s.users := rfl
@[simp] theorem setClockMode_env (m : ClockMode) (s : State) : (setClockMode m s).env = s.env := rfl
@[simp] theorem setClockMode_requests (m : ClockMode) (s : State) : (setClockMode m s).requests = s.requests := rfl
@[simp] theorem setClockMode_console (m : ClockMode) (s : State) : (setClockMode m s).console = s.console := rfl

/-! ### setArmed -/

@[simp] theorem setArmed_cfg (s : State) : (setArmed s).cfg = s.cfg := rfl
@[simp] theorem setArmed_own (s : State) : (setArmed s).own = s.own := rfl
@[simp] theorem setArmed_clockMode (s : State) : (setArmed s).clockMode = .singleStep := rfl
@[simp] theorem setArmed_arm (s : State) : (setArmed s).arm = .armed := rfl
@[simp] theorem setArmed_seq (s : State) : (setArmed s).seq = s.seq := rfl
@[simp] theorem setArmed_polls (s : State) : (setArmed s).polls = s.polls := rfl
@[simp] theorem setArmed_t0 (s : State) : (setArmed s).t0 = s.t0 := rfl
@[simp] theorem setArmed_fault (s : State) : (setArmed s).fault = s.fault := rfl
@[simp] theorem setArmed_raised (s : State) : (setArmed s).raised = s.raised := rfl
@[simp] theorem setArmed_killed (s : State) : (setArmed s).killed = s.killed := rfl
@[simp] theorem setArmed_result (s : State) : (setArmed s).result = s.result := rfl
@[simp] theorem setArmed_dir (s : State) : (setArmed s).dir = s.dir := rfl
@[simp] theorem setArmed_out (s : State) : (setArmed s).out = s.out := rfl
@[simp] theorem setArmed_ioc (s : State) : (setArmed s).ioc = s.ioc := rfl
@[simp] theorem setArmed_target (s : State) : (setArmed s).target = s.target := rfl
@[simp] theorem setArmed_trace (s : State) : (setArmed s).trace = s.trace := rfl
@[simp] theorem setArmed_now (s : State) : (setArmed s).now = s.now := rfl
@[simp] theorem setArmed_draws (s : State) : (setArmed s).draws = s.draws := rfl
@[simp] theorem setArmed_cancel (s : State) : (setArmed s).cancel = s.cancel := rfl
@[simp] theorem setArmed_users (s : State) : (setArmed s).users = s.users := rfl
@[simp] theorem setArmed_env (s : State) : (setArmed s).env = s.env := rfl
@[simp] theorem setArmed_requests (s : State) : (setArmed s).requests = s.requests := rfl
@[simp] theorem setArmed_console (s : State) : (setArmed s).console = s.console := rfl

/-! ### setDisarmed -/

@[simp] theorem setDisarmed_cfg (s : State) : (setDisarmed s).cfg = s.cfg := rfl
@[simp] theorem setDisarmed_own (s : State) : (setDisarmed s).own = s.own := rfl
@[simp] theorem setDisarmed_clockMode (s : State) : (setDisarmed s).clockMode = if s.clockMode = .singleStep then .hardwareFree else s.clockMode := rfl
@[simp] theorem setDisarmed_arm (s : State) : (setDisarmed s).arm = .disarmed := rfl
@[simp] theorem setDisarmed_seq (s : State) : (setDisarmed s).seq = s.seq := rfl
@[simp] theorem setDisarmed_polls (s : State) : (setDisarmed s).polls = s.polls := rfl
@[simp] theorem setDisarmed_t0 (s : State) : (setDisarmed s).t0 = s.t0 := rfl
@[simp] theorem setDisarmed_fault (s : State) : (setDisarmed s).fault = s.fault := rfl
@[simp] theorem setDisarmed_raised (s : State) : (setDisarmed s).raised = s.raised := rfl
@[simp] theorem setDisarmed_killed (s : State) : (setDisarmed s).killed = s.killed := rfl
@[simp] theorem setDisarmed_result (s : State) : (setDisarmed s).result = s.result := rfl
@[simp] theorem setDisarmed_dir (s : State) : (setDisarmed s).dir = s.dir := rfl
@[simp] theorem setDisarmed_out (s : State) : (setDisarmed s).out = s.out := rfl
@[simp] theorem setDisarmed_ioc (s : State) : (setDisarmed s).ioc = s.ioc := rfl
@[simp] theorem setDisarmed_target (s : State) : (setDisarmed s).target = s.target := rfl
@[simp] theorem setDisarmed_trace (s : State) : (setDisarmed s).trace = s.trace := rfl
@[simp] theorem setDisarmed_now (s : State) : (setDisarmed s).now = s.now := rfl
@[simp] theorem setDisarmed_draws (s : State) : (setDisarmed s).draws = s.draws := rfl
@[simp] theorem setDisarmed_cancel (s : State) : (setDisarmed s).cancel = s.cancel := rfl
@[simp] theorem setDisarmed_users (s : State) : (setDisarmed s).users = s.users := rfl
@[simp] theorem setDisarmed_env (s : State) : (setDisarmed s).env = s.env := rfl
@[simp] theorem setDisarmed_requests (s : State) : (setDisarmed s).requests = s.requests := rfl
@[simp] theorem setDisarmed_console (s : State) : (setDisarmed s).console = s.console := rfl

/-! ### emit -/

@[simp] theorem emit_cfg (e : Event) (s : State) : (emit e s).cfg = s.cfg := rfl
@[simp] theorem emit_own (e : Event) (s : State) : (emit e s).own = s.own := rfl
@[simp] theorem emit_clockMode (e : Event) (s : State) : (emit e s).clockMode = s.clockMode := rfl
@[simp] theorem emit_arm (e : Event) (s : State) : (emit e s).arm = s.arm := rfl
@[simp] theorem emit_seq (e : Event) (s : State) : (emit e s).seq = s.seq := rfl
@[simp] theorem emit_polls (e : Event) (s : State) : (emit e s).polls = s.polls := rfl
@[simp] theorem emit_t0 (e : Event) (s : State) : (emit e s).t0 = s.t0 := rfl
@[simp] theorem emit_fault (e : Event) (s : State) : (emit e s).fault = s.fault := rfl
@[simp] theorem emit_raised (e : Event) (s : State) : (emit e s).raised = s.raised := rfl
@[simp] theorem emit_killed (e : Event) (s : State) : (emit e s).killed = s.killed := rfl
@[simp] theorem emit_result (e : Event) (s : State) : (emit e s).result = s.result := rfl
@[simp] theorem emit_dir (e : Event) (s : State) : (emit e s).dir = s.dir := rfl
@[simp] theorem emit_out (e : Event) (s : State) : (emit e s).out = s.out := rfl
@[simp] theorem emit_ioc (e : Event) (s : State) : (emit e s).ioc = s.ioc := rfl
@[simp] theorem emit_target (e : Event) (s : State) : (emit e s).target = s.target := rfl
@[simp] theorem emit_trace (e : Event) (s : State) : (emit e s).trace = s.trace ++ [e] := rfl
@[simp] theorem emit_now (e : Event) (s : State) : (emit e s).now = s.now := rfl
@[simp] theorem emit_draws (e : Event) (s : State) : (emit e s).draws = s.draws := rfl
@[simp] theorem emit_cancel (e : Event) (s : State) : (emit e s).cancel = s.cancel := rfl
@[simp] theorem emit_users (e : Event) (s : State) : (emit e s).users = s.users := rfl
@[simp] theorem emit_env (e : Event) (s : State) : (emit e s).env = s.env := rfl
@[simp] theorem emit_requests (e : Event) (s : State) : (emit e s).requests = s.requests := rfl
@[simp] theorem emit_console (e : Event) (s : State) : (emit e s).console = s.console := rfl

/-! ### opReturn -/

@[simp] theorem opReturn_cfg (s : State) : (opReturn s).cfg = s.cfg := rfl
@[simp] theorem opReturn_own (s : State) : (opReturn s).own = s.own := rfl
@[simp] theorem opReturn_clockMode (s : State) : (opReturn s).clockMode = s.clockMode := rfl
@[simp] theorem opReturn_arm (s : State) : (opReturn s).arm = s.arm := rfl
@[simp] theorem opReturn_seq (s : State) : (opReturn s).seq = .idle := rfl
@[simp] theorem opReturn_polls (s : State) : (opReturn s).polls = 0 := rfl
@[simp] theorem opReturn_t0 (s : State) : (opReturn s).t0 = s.t0 := rfl
@[simp] theorem opReturn_fault (s : State) : (opReturn s).fault = s.fault := rfl
@[simp] theorem opReturn_raised (s : State) : (opReturn s).raised = s.raised := rfl
@[simp] theorem opReturn_killed (s : State) : (opReturn s).killed = s.killed := rfl
@[simp] theorem opReturn_result (s : State) : (opReturn s).result = s.result := rfl
@[simp] theorem opReturn_dir (s : State) : (opReturn s).dir = s.dir := rfl
@[simp] theorem opReturn_out (s : State) : (opReturn s).out = s.out := rfl
@[simp] theorem opReturn_ioc (s : State) : (opReturn s).ioc = s.ioc := rfl
@[simp] theorem opReturn_target (s : State) : (opReturn s).target = s.target := rfl
@[simp] theorem opReturn_trace (s : State) : (opReturn s).trace = s.trace := rfl
@[simp] theorem opReturn_now (s : State) : (opReturn s).now = s.now := rfl
@[simp] theorem opReturn_draws (s : State) : (opReturn s).draws = s.draws := rfl
@[simp] theorem opReturn_cancel (s : State) : (opReturn s).cancel = s.cancel := rfl
@[simp] theorem opReturn_users (s : State) : (opReturn s).users = s.users := rfl
@[simp] theorem opReturn_env (s : State) : (opReturn s).env = s.env := rfl
@[simp] theorem opReturn_requests (s : State) : (opReturn s).requests = s.requests := rfl
@[simp] theorem opReturn_console (s : State) : (opReturn s).console = s.console := rfl

/-! ### takeKill -/

@[simp] theorem takeKill_cfg (s : State) : (takeKill s).cfg = s.cfg := rfl
@[simp] theorem takeKill_own (s : State) : (takeKill s).own = s.own := rfl
@[simp] theorem takeKill_clockMode (s : State) : (takeKill s).clockMode = s.clockMode := rfl
@[simp] theorem takeKill_arm (s : State) : (takeKill s).arm = s.arm := rfl
@[simp] theorem takeKill_seq (s : State) : (takeKill s).seq = .idle := rfl
@[simp] theorem takeKill_polls (s : State) : (takeKill s).polls = 0 := rfl
@[simp] theorem takeKill_t0 (s : State) : (takeKill s).t0 = s.t0 := rfl
@[simp] theorem takeKill_fault (s : State) : (takeKill s).fault = s.fault := rfl
@[simp] theorem takeKill_raised (s : State) : (takeKill s).raised = s.raised := rfl
@[simp] theorem takeKill_killed (s : State) : (takeKill s).killed = true := rfl
@[simp] theorem takeKill_result (s : State) : (takeKill s).result = s.result := rfl
@[simp] theorem takeKill_dir (s : State) : (takeKill s).dir = s.dir := rfl
@[simp] theorem takeKill_out (s : State) : (takeKill s).out = s.out := rfl
@[simp] theorem takeKill_ioc (s : State) : (takeKill s).ioc = s.ioc := rfl
@[simp] theorem takeKill_target (s : State) : (takeKill s).target = s.target := rfl
@[simp] theorem takeKill_trace (s : State) : (takeKill s).trace = s.trace := rfl
@[simp] theorem takeKill_now (s : State) : (takeKill s).now = s.now := rfl
@[simp] theorem takeKill_draws (s : State) : (takeKill s).draws = s.draws := rfl
@[simp] theorem takeKill_cancel (s : State) : (takeKill s).cancel = s.cancel := rfl
@[simp] theorem takeKill_users (s : State) : (takeKill s).users = s.users := rfl
@[simp] theorem takeKill_env (s : State) : (takeKill s).env = s.env := rfl
@[simp] theorem takeKill_requests (s : State) : (takeKill s).requests = dropRest s.requests := rfl
@[simp] theorem takeKill_console (s : State) : (takeKill s).console = s.console := rfl

/-! ### takeCancel -/

@[simp] theorem takeCancel_cfg (s : State) : (takeCancel s).cfg = s.cfg := rfl
@[simp] theorem takeCancel_own (s : State) : (takeCancel s).own = s.own := rfl
@[simp] theorem takeCancel_clockMode (s : State) : (takeCancel s).clockMode = s.clockMode := rfl
@[simp] theorem takeCancel_arm (s : State) : (takeCancel s).arm = s.arm := rfl
@[simp] theorem takeCancel_polls (s : State) : (takeCancel s).polls = 0 := rfl
@[simp] theorem takeCancel_t0 (s : State) : (takeCancel s).t0 = s.t0 := rfl
@[simp] theorem takeCancel_fault (s : State) : (takeCancel s).fault = s.fault := rfl
@[simp] theorem takeCancel_raised (s : State) : (takeCancel s).raised = s.raised := rfl
@[simp] theorem takeCancel_killed (s : State) : (takeCancel s).killed = s.killed := rfl
@[simp] theorem takeCancel_result (s : State) : (takeCancel s).result = s.result := rfl
@[simp] theorem takeCancel_dir (s : State) : (takeCancel s).dir = s.dir := rfl
@[simp] theorem takeCancel_out (s : State) : (takeCancel s).out = s.out := rfl
@[simp] theorem takeCancel_ioc (s : State) : (takeCancel s).ioc = s.ioc := rfl
@[simp] theorem takeCancel_target (s : State) : (takeCancel s).target = s.target := rfl
@[simp] theorem takeCancel_trace (s : State) : (takeCancel s).trace = s.trace := rfl
@[simp] theorem takeCancel_now (s : State) : (takeCancel s).now = s.now := rfl
@[simp] theorem takeCancel_draws (s : State) : (takeCancel s).draws = s.draws := rfl
@[simp] theorem takeCancel_cancel (s : State) : (takeCancel s).cancel = false := rfl
@[simp] theorem takeCancel_users (s : State) : (takeCancel s).users = s.users := rfl
@[simp] theorem takeCancel_env (s : State) : (takeCancel s).env = s.env := rfl
@[simp] theorem takeCancel_requests (s : State) : (takeCancel s).requests = s.requests := rfl
@[simp] theorem takeCancel_console (s : State) : (takeCancel s).console = s.console := rfl

/-! ### raiseFault -/

@[simp] theorem raiseFault_cfg (f : Fault) (s : State) : (raiseFault f s).cfg = s.cfg := rfl
@[simp] theorem raiseFault_own (f : Fault) (s : State) : (raiseFault f s).own = s.own := rfl
@[simp] theorem raiseFault_clockMode (f : Fault) (s : State) : (raiseFault f s).clockMode = s.clockMode := rfl
@[simp] theorem raiseFault_arm (f : Fault) (s : State) : (raiseFault f s).arm = s.arm := rfl
@[simp] theorem raiseFault_polls (f : Fault) (s : State) : (raiseFault f s).polls = 0 := rfl
@[simp] theorem raiseFault_t0 (f : Fault) (s : State) : (raiseFault f s).t0 = s.t0 := rfl
@[simp] theorem raiseFault_fault (f : Fault) (s : State) : (raiseFault f s).fault = some f := rfl
@[simp] theorem raiseFault_raised (f : Fault) (s : State) : (raiseFault f s).raised = some f := rfl
@[simp] theorem raiseFault_killed (f : Fault) (s : State) : (raiseFault f s).killed = s.killed := rfl
@[simp] theorem raiseFault_result (f : Fault) (s : State) : (raiseFault f s).result = s.result := rfl
@[simp] theorem raiseFault_dir (f : Fault) (s : State) : (raiseFault f s).dir = s.dir := rfl
@[simp] theorem raiseFault_out (f : Fault) (s : State) : (raiseFault f s).out = s.out := rfl
@[simp] theorem raiseFault_ioc (f : Fault) (s : State) : (raiseFault f s).ioc = s.ioc := rfl
@[simp] theorem raiseFault_target (f : Fault) (s : State) : (raiseFault f s).target = s.target := rfl
@[simp] theorem raiseFault_trace (f : Fault) (s : State) : (raiseFault f s).trace = s.trace := rfl
@[simp] theorem raiseFault_now (f : Fault) (s : State) : (raiseFault f s).now = s.now := rfl
@[simp] theorem raiseFault_draws (f : Fault) (s : State) : (raiseFault f s).draws = s.draws := rfl
@[simp] theorem raiseFault_cancel (f : Fault) (s : State) : (raiseFault f s).cancel = s.cancel := rfl
@[simp] theorem raiseFault_users (f : Fault) (s : State) : (raiseFault f s).users = s.users := rfl
@[simp] theorem raiseFault_env (f : Fault) (s : State) : (raiseFault f s).env = s.env := rfl
@[simp] theorem raiseFault_requests (f : Fault) (s : State) : (raiseFault f s).requests = s.requests := rfl
@[simp] theorem raiseFault_console (f : Fault) (s : State) : (raiseFault f s).console = s.console := rfl

/-! ### jumpTo -/

@[simp] theorem jumpTo_cfg (k : Nat) (s : State) : (jumpTo k s).cfg = s.cfg := rfl
@[simp] theorem jumpTo_own (k : Nat) (s : State) : (jumpTo k s).own = s.own := rfl
@[simp] theorem jumpTo_clockMode (k : Nat) (s : State) : (jumpTo k s).clockMode = s.clockMode := rfl
@[simp] theorem jumpTo_arm (k : Nat) (s : State) : (jumpTo k s).arm = s.arm := rfl
@[simp] theorem jumpTo_polls (k : Nat) (s : State) : (jumpTo k s).polls = 0 := rfl
@[simp] theorem jumpTo_t0 (k : Nat) (s : State) : (jumpTo k s).t0 = s.t0 := rfl
@[simp] theorem jumpTo_fault (k : Nat) (s : State) : (jumpTo k s).fault = s.fault := rfl
@[simp] theorem jumpTo_raised (k : Nat) (s : State) : (jumpTo k s).raised = s.raised := rfl
@[simp] theorem jumpTo_killed (k : Nat) (s : State) : (jumpTo k s).killed = s.killed := rfl
@[simp] theorem jumpTo_result (k : Nat) (s : State) : (jumpTo k s).result = s.result := rfl
@[simp] theorem jumpTo_dir (k : Nat) (s : State) : (jumpTo k s).dir = s.dir := rfl
@[simp] theorem jumpTo_out (k : Nat) (s : State) : (jumpTo k s).out = s.out := rfl
@[simp] theorem jumpTo_ioc (k : Nat) (s : State) : (jumpTo k s).ioc = s.ioc := rfl
@[simp] theorem jumpTo_target (k : Nat) (s : State) : (jumpTo k s).target = s.target := rfl
@[simp] theorem jumpTo_trace (k : Nat) (s : State) : (jumpTo k s).trace = s.trace := rfl
@[simp] theorem jumpTo_now (k : Nat) (s : State) : (jumpTo k s).now = s.now := rfl
@[simp] theorem jumpTo_draws (k : Nat) (s : State) : (jumpTo k s).draws = s.draws := rfl
@[simp] theorem jumpTo_cancel (k : Nat) (s : State) : (jumpTo k s).cancel = s.cancel := rfl
@[simp] theorem jumpTo_users (k : Nat) (s : State) : (jumpTo k s).users = s.users := rfl
@[simp] theorem jumpTo_env (k : Nat) (s : State) : (jumpTo k s).env = s.env := rfl
@[simp] theorem jumpTo_requests (k : Nat) (s : State) : (jumpTo k s).requests = s.requests := rfl
@[simp] theorem jumpTo_console (k : Nat) (s : State) : (jumpTo k s).console = s.console := rfl

/-! ### beginOp -/

@[simp] theorem beginOp_cfg (i : Instr) (s : State) : (beginOp i s).cfg = s.cfg := rfl
@[simp] theorem beginOp_own (i : Instr) (s : State) : (beginOp i s).own = s.own := rfl
@[simp] theorem beginOp_clockMode (i : Instr) (s : State) : (beginOp i s).clockMode = s.clockMode := rfl
@[simp] theorem beginOp_arm (i : Instr) (s : State) : (beginOp i s).arm = s.arm := rfl
@[simp] theorem beginOp_seq (i : Instr) (s : State) : (beginOp i s).seq = .running i 0 := rfl
@[simp] theorem beginOp_polls (i : Instr) (s : State) : (beginOp i s).polls = 0 := rfl
@[simp] theorem beginOp_t0 (i : Instr) (s : State) : (beginOp i s).t0 = s.t0 := rfl
@[simp] theorem beginOp_fault (i : Instr) (s : State) : (beginOp i s).fault = s.fault := rfl
@[simp] theorem beginOp_raised (i : Instr) (s : State) : (beginOp i s).raised = none := rfl
@[simp] theorem beginOp_killed (i : Instr) (s : State) : (beginOp i s).killed = s.killed := rfl
@[simp] theorem beginOp_result (i : Instr) (s : State) : (beginOp i s).result = s.result := rfl
@[simp] theorem beginOp_dir (i : Instr) (s : State) : (beginOp i s).dir = s.dir := rfl
@[simp] theorem beginOp_out (i : Instr) (s : State) : (beginOp i s).out = s.out := rfl
@[simp] theorem beginOp_ioc (i : Instr) (s : State) : (beginOp i s).ioc = s.ioc := rfl
@[simp] theorem beginOp_target (i : Instr) (s : State) : (beginOp i s).target = s.target := rfl
@[simp] theorem beginOp_trace (i : Instr) (s : State) : (beginOp i s).trace = s.trace := rfl
@[simp] theorem beginOp_now (i : Instr) (s : State) : (beginOp i s).now = s.now := rfl
@[simp] theorem beginOp_draws (i : Instr) (s : State) : (beginOp i s).draws = s.draws := rfl
@[simp] theorem beginOp_cancel (i : Instr) (s : State) : (beginOp i s).cancel = s.cancel := rfl
@[simp] theorem beginOp_users (i : Instr) (s : State) : (beginOp i s).users = s.users := rfl
@[simp] theorem beginOp_env (i : Instr) (s : State) : (beginOp i s).env = s.env := rfl
@[simp] theorem beginOp_requests (i : Instr) (s : State) : (beginOp i s).requests = s.requests := rfl
@[simp] theorem beginOp_console (i : Instr) (s : State) : (beginOp i s).console = s.console := rfl

/-! ### advance -/

@[simp] theorem advance_cfg (k : Nat) (l : ProgLine) (s : State) : (advance k l s).cfg = s.cfg := rfl
@[simp] theorem advance_own (k : Nat) (l : ProgLine) (s : State) : (advance k l s).own = s.own := rfl
@[simp] theorem advance_clockMode (k : Nat) (l : ProgLine) (s : State) : (advance k l s).clockMode = s.clockMode := rfl
@[simp] theorem advance_arm (k : Nat) (l : ProgLine) (s : State) : (advance k l s).arm = s.arm := rfl
@[simp] theorem advance_polls (k : Nat) (l : ProgLine) (s : State) : (advance k l s).polls = 0 := rfl
@[simp] theorem advance_t0 (k : Nat) (l : ProgLine) (s : State) : (advance k l s).t0 = s.t0 := rfl
@[simp] theorem advance_fault (k : Nat) (l : ProgLine) (s : State) : (advance k l s).fault = s.fault := rfl
@[simp] theorem advance_raised (k : Nat) (l : ProgLine) (s : State) : (advance k l s).raised = s.raised := rfl
@[simp] theorem advance_killed (k : Nat) (l : ProgLine) (s : State) : (advance k l s).killed = s.killed := rfl
@[simp] theorem advance_result (k : Nat) (l : ProgLine) (s : State) : (advance k l s).result = s.result := rfl
@[simp] theorem advance_dir (k : Nat) (l : ProgLine) (s : State) : (advance k l s).dir = s.dir := rfl
@[simp] theorem advance_out (k : Nat) (l : ProgLine) (s : State) : (advance k l s).out = s.out := rfl
@[simp] theorem advance_ioc (k : Nat) (l : ProgLine) (s : State) : (advance k l s).ioc = s.ioc := rfl
@[simp] theorem advance_target (k : Nat) (l : ProgLine) (s : State) : (advance k l s).target = s.target := rfl
@[simp] theorem advance_trace (k : Nat) (l : ProgLine) (s : State) : (advance k l s).trace = s.trace := rfl
@[simp] theorem advance_now (k : Nat) (l : ProgLine) (s : State) : (advance k l s).now = s.now := rfl
@[simp] theorem advance_draws (k : Nat) (l : ProgLine) (s : State) : (advance k l s).draws = s.draws := rfl
@[simp] theorem advance_cancel (k : Nat) (l : ProgLine) (s : State) : (advance k l s).cancel = s.cancel := rfl
@[simp] theorem advance_users (k : Nat) (l : ProgLine) (s : State) : (advance k l s).users = s.users := rfl
@[simp] theorem advance_env (k : Nat) (l : ProgLine) (s : State) : (advance k l s).env = s.env := rfl
@[simp] theorem advance_requests (k : Nat) (l : ProgLine) (s : State) : (advance k l s).requests = s.requests := rfl
@[simp] theorem advance_console (k : Nat) (l : ProgLine) (s : State) : (advance k l s).console = s.console := rfl

/-! ### pushRest -/

@[simp] theorem pushRest_cfg (r : CommandRest) (s : State) : (pushRest r s).cfg = s.cfg := rfl
@[simp] theorem pushRest_own (r : CommandRest) (s : State) : (pushRest r s).own = s.own := rfl
@[simp] theorem pushRest_clockMode (r : CommandRest) (s : State) : (pushRest r s).clockMode = s.clockMode := rfl
@[simp] theorem pushRest_arm (r : CommandRest) (s : State) : (pushRest r s).arm = s.arm := rfl
@[simp] theorem pushRest_seq (r : CommandRest) (s : State) : (pushRest r s).seq = s.seq := rfl
@[simp] theorem pushRest_polls (r : CommandRest) (s : State) : (pushRest r s).polls = s.polls := rfl
@[simp] theorem pushRest_t0 (r : CommandRest) (s : State) : (pushRest r s).t0 = s.t0 := rfl
@[simp] theorem pushRest_fault (r : CommandRest) (s : State) : (pushRest r s).fault = s.fault := rfl
@[simp] theorem pushRest_raised (r : CommandRest) (s : State) : (pushRest r s).raised = s.raised := rfl
@[simp] theorem pushRest_killed (r : CommandRest) (s : State) : (pushRest r s).killed = s.killed := rfl
@[simp] theorem pushRest_result (r : CommandRest) (s : State) : (pushRest r s).result = s.result := rfl
@[simp] theorem pushRest_dir (r : CommandRest) (s : State) : (pushRest r s).dir = s.dir := rfl
@[simp] theorem pushRest_out (r : CommandRest) (s : State) : (pushRest r s).out = s.out := rfl
@[simp] theorem pushRest_ioc (r : CommandRest) (s : State) : (pushRest r s).ioc = s.ioc := rfl
@[simp] theorem pushRest_target (r : CommandRest) (s : State) : (pushRest r s).target = s.target := rfl
@[simp] theorem pushRest_trace (r : CommandRest) (s : State) : (pushRest r s).trace = s.trace := rfl
@[simp] theorem pushRest_now (r : CommandRest) (s : State) : (pushRest r s).now = s.now := rfl
@[simp] theorem pushRest_draws (r : CommandRest) (s : State) : (pushRest r s).draws = s.draws := rfl
@[simp] theorem pushRest_cancel (r : CommandRest) (s : State) : (pushRest r s).cancel = s.cancel := rfl
@[simp] theorem pushRest_users (r : CommandRest) (s : State) : (pushRest r s).users = s.users := rfl
@[simp] theorem pushRest_env (r : CommandRest) (s : State) : (pushRest r s).env = s.env := rfl
@[simp] theorem pushRest_requests (r : CommandRest) (s : State) : (pushRest r s).requests = .rest r :: s.requests := rfl
@[simp] theorem pushRest_console (r : CommandRest) (s : State) : (pushRest r s).console = s.console := rfl

/-! ### spendEdge -/

@[simp] theorem spendEdge_cfg (s : State) : (spendEdge s).cfg = s.cfg := rfl
@[simp] theorem spendEdge_own (s : State) : (spendEdge s).own = s.own := rfl
@[simp] theorem spendEdge_clockMode (s : State) : (spendEdge s).clockMode = s.clockMode := rfl
@[simp] theorem spendEdge_arm (s : State) : (spendEdge s).arm = s.arm := rfl
@[simp] theorem spendEdge_seq (s : State) : (spendEdge s).seq = s.seq := rfl
@[simp] theorem spendEdge_polls (s : State) : (spendEdge s).polls = s.polls := rfl
@[simp] theorem spendEdge_t0 (s : State) : (spendEdge s).t0 = s.t0 := rfl
@[simp] theorem spendEdge_fault (s : State) : (spendEdge s).fault = s.fault := rfl
@[simp] theorem spendEdge_raised (s : State) : (spendEdge s).raised = s.raised := rfl
@[simp] theorem spendEdge_killed (s : State) : (spendEdge s).killed = s.killed := rfl
@[simp] theorem spendEdge_result (s : State) : (spendEdge s).result = s.result := rfl
@[simp] theorem spendEdge_dir (s : State) : (spendEdge s).dir = s.dir := rfl
@[simp] theorem spendEdge_out (s : State) : (spendEdge s).out = s.out := rfl
@[simp] theorem spendEdge_ioc (s : State) : (spendEdge s).ioc = s.ioc := rfl
@[simp] theorem spendEdge_target (s : State) : (spendEdge s).target = { s.target with edge := false } := rfl
@[simp] theorem spendEdge_trace (s : State) : (spendEdge s).trace = s.trace := rfl
@[simp] theorem spendEdge_now (s : State) : (spendEdge s).now = s.now := rfl
@[simp] theorem spendEdge_draws (s : State) : (spendEdge s).draws = s.draws := rfl
@[simp] theorem spendEdge_cancel (s : State) : (spendEdge s).cancel = s.cancel := rfl
@[simp] theorem spendEdge_users (s : State) : (spendEdge s).users = s.users := rfl
@[simp] theorem spendEdge_env (s : State) : (spendEdge s).env = s.env := rfl
@[simp] theorem spendEdge_requests (s : State) : (spendEdge s).requests = s.requests := rfl
@[simp] theorem spendEdge_console (s : State) : (spendEdge s).console = s.console := rfl

/-! ### touchPort -/

@[simp] theorem touchPort_cfg (p : Port) (s : State) : (touchPort p s).cfg = s.cfg := rfl
@[simp] theorem touchPort_own (p : Port) (s : State) : (touchPort p s).own = s.own := rfl
@[simp] theorem touchPort_clockMode (p : Port) (s : State) : (touchPort p s).clockMode = s.clockMode := rfl
@[simp] theorem touchPort_arm (p : Port) (s : State) : (touchPort p s).arm = s.arm := rfl
@[simp] theorem touchPort_seq (p : Port) (s : State) : (touchPort p s).seq = s.seq := rfl
@[simp] theorem touchPort_polls (p : Port) (s : State) : (touchPort p s).polls = s.polls := rfl
@[simp] theorem touchPort_t0 (p : Port) (s : State) : (touchPort p s).t0 = s.t0 := rfl
@[simp] theorem touchPort_fault (p : Port) (s : State) : (touchPort p s).fault = s.fault := rfl
@[simp] theorem touchPort_raised (p : Port) (s : State) : (touchPort p s).raised = s.raised := rfl
@[simp] theorem touchPort_killed (p : Port) (s : State) : (touchPort p s).killed = s.killed := rfl
@[simp] theorem touchPort_result (p : Port) (s : State) : (touchPort p s).result = s.result := rfl
@[simp] theorem touchPort_dir (p : Port) (s : State) : (touchPort p s).dir = s.dir := rfl
@[simp] theorem touchPort_out (p : Port) (s : State) : (touchPort p s).out = s.out := rfl
@[simp] theorem touchPort_ioc (p : Port) (s : State) : (touchPort p s).ioc = if p = s.cfg.pins.m1.port then { s.ioc with flag := 0x00#8 } else s.ioc := rfl
@[simp] theorem touchPort_target (p : Port) (s : State) : (touchPort p s).target = s.target := rfl
@[simp] theorem touchPort_trace (p : Port) (s : State) : (touchPort p s).trace = s.trace := rfl
@[simp] theorem touchPort_now (p : Port) (s : State) : (touchPort p s).now = s.now := rfl
@[simp] theorem touchPort_draws (p : Port) (s : State) : (touchPort p s).draws = s.draws + 3 := rfl
@[simp] theorem touchPort_cancel (p : Port) (s : State) : (touchPort p s).cancel = s.cancel := rfl
@[simp] theorem touchPort_users (p : Port) (s : State) : (touchPort p s).users = s.users := rfl
@[simp] theorem touchPort_env (p : Port) (s : State) : (touchPort p s).env = s.env := rfl
@[simp] theorem touchPort_requests (p : Port) (s : State) : (touchPort p s).requests = s.requests := rfl
@[simp] theorem touchPort_console (p : Port) (s : State) : (touchPort p s).console = s.console := rfl

end Sys2Proof.Machine
end

