-- ==== Sys2Proof/Laws/Env.lean ====
section
/-! SUPPORT. Everything that the environment can do at a boundary, said once: what it never touches, what it does when
its script says nothing, and what it can do to a target that is off the bus. -/

namespace Sys2Proof.Machine

/-- What no act of the environment touches (R4, R7): the controller's side but for a latched M1 bit, the clock, the
pending cancellation, the user's events and the free values drawn. -/
structure EnvKept (s t : State) : Prop where
  cfg : t.cfg = s.cfg
  own : t.own = s.own
  clockMode : t.clockMode = s.clockMode
  arm : t.arm = s.arm
  seq : t.seq = s.seq
  polls : t.polls = s.polls
  t0 : t.t0 = s.t0
  fault : t.fault = s.fault
  raised : t.raised = s.raised
  killed : t.killed = s.killed
  result : t.result = s.result
  dir : t.dir = s.dir
  out : t.out = s.out
  trace : t.trace = s.trace
  draws : s.draws ≤ t.draws
  requests : t.requests = s.requests
  console : t.console = s.console
  en : t.ioc.en = s.ioc.en
  dflt : t.ioc.dflt = s.ioc.dflt
  cmp : t.ioc.cmp = s.ioc.cmp
  flag : ∀ j, j ≠ s.cfg.pins.m1.bit → bitAt t.ioc.flag j = bitAt s.ioc.flag j
  latched : flagLatched s .m1 = true → flagLatched t .m1 = true
  resetSince : t.target.resetSince = s.target.resetSince
  memory : s.target.mem.wf = true → t.target.mem.wf = true

theorem EnvKept.refl (s : State) : EnvKept s s := by
  constructor <;> first | rfl | exact Nat.le_refl _ | intros; rfl | exact fun h => h

theorem EnvKept.trans {s t u : State} (h : EnvKept s t) (k : EnvKept t u) : EnvKept s u where
  cfg := k.cfg.trans h.cfg
  own := k.own.trans h.own
  clockMode := k.clockMode.trans h.clockMode
  arm := k.arm.trans h.arm
  seq := k.seq.trans h.seq
  polls := k.polls.trans h.polls
  t0 := k.t0.trans h.t0
  fault := k.fault.trans h.fault
  raised := k.raised.trans h.raised
  killed := k.killed.trans h.killed
  result := k.result.trans h.result
  dir := k.dir.trans h.dir
  out := k.out.trans h.out
  trace := k.trace.trans h.trace
  draws := h.draws.trans k.draws
  requests := k.requests.trans h.requests
  console := k.console.trans h.console
  en := k.en.trans h.en
  dflt := k.dflt.trans h.dflt
  cmp := k.cmp.trans h.cmp
  flag j hj := (k.flag j (by rw [h.cfg]; exact hj)).trans (h.flag j hj)
  latched x := k.latched (h.latched x)
  resetSince := k.resetSince.trans h.resetSince
  memory x := k.memory (h.memory x)

/-- A change of the target alone that keeps `resetSince` and the memory's form. -/
theorem EnvKept.ofTarget (s : State) (g : Target) (h1 : g.resetSince = s.target.resetSince)
    (h2 : s.target.mem.wf = true → g.mem.wf = true) : EnvKept s { s with target := g } :=
  { EnvKept.refl s with resetSince := h1, memory := h2 }

theorem storeByte_kept (a : Addr) (v : Byte) (s : State) : EnvKept s (storeByte a v s) := by
  unfold storeByte
  split
  · exact EnvKept.ofTarget s _ rfl (fun h => Memory.wf_write _ _ _ h)
  · exact EnvKept.refl s

theorem commitByte_kept (s : State) : EnvKept s (commitByte s) :=
  (storeByte_kept (busAddr s) (portIn s .dataLo) s).trans
    { EnvKept.refl _ with
      draws := by
        have h := (storeByte_kept (busAddr s) (portIn s .dataLo) s).draws
        have e : (storeByte (busAddr s) (portIn s .dataLo) s).draws = s.draws := by unfold storeByte; split <;> rfl
        rw [e]
        exact Nat.le_add_right _ _ }

theorem holdWrite_kept (s : State) : EnvKept s (holdWrite s) := by
  unfold holdWrite
  split
  · exact commitByte_kept s
  · exact EnvKept.refl s

theorem ioAccess_kept (x : IoAccess) (s : State) : EnvKept s (ioAccess x s) := by
  cases x
  · exact EnvKept.ofTarget s _ rfl (fun h => h)
  · exact EnvKept.ofTarget s _ rfl (fun h => h)

theorem beginFetch_kept (s : State) : EnvKept s (beginFetch s) := by
  unfold beginFetch
  dsimp only
  split
  · refine { EnvKept.refl s with flag := ?_, latched := ?_, resetSince := rfl, memory := fun h => h }
    · intro j hj; exact bitAt_setBit_other _ _ hj
    · intro _; exact bitAt_setBit_same _ _ _
  · exact { EnvKept.refl s with resetSince := rfl, memory := fun h => h }

/-- The bank register changes, and an open window is held under the new bank. -/
theorem bankAct_kept (s : State) (b : Byte) :
    EnvKept s (holdWrite { s with target := { s.target with bank := b } }) :=
  (EnvKept.ofTarget s { s.target with bank := b } rfl (fun h => h)).trans (holdWrite_kept _)

/-- One act of the environment. -/
theorem applyAct_kept (s : State) (a : EnvAct) : EnvKept s (applyAct s a) := by
  cases a <;> simp only [applyAct] <;>
    first
      | (split
         · first
             | exact EnvKept.ofTarget s _ rfl (fun h => h)
             | exact beginFetch_kept s
             | exact storeByte_kept _ _ s
             | exact bankAct_kept s _
             | exact ioAccess_kept _ s
             | exact EnvKept.refl s
             | exact { EnvKept.refl s with }
         · first
             | exact EnvKept.refl s
             | exact { EnvKept.refl s with })
      | exact EnvKept.ofTarget s _ rfl (fun h => h)
      | exact { EnvKept.refl s with }

theorem applyActs_kept (s : State) (l : List EnvAct) : EnvKept s (applyActs s l) := by
  induction l generalizing s with
  | nil => exact EnvKept.refl s
  | cons a l ih => exact (applyAct_kept s a).trans (ih (applyAct s a))

theorem spendEdge_kept (s : State) : EnvKept s (spendEdge s) := EnvKept.ofTarget s _ rfl (fun h => h)

/-- ALL OF A BOUNDARY: what the environment leaves alone. -/
theorem boundary_kept (s : State) : EnvKept s (boundary s).1 := by
  unfold boundary
  split
  · exact spendEdge_kept s
  · refine EnvKept.trans ?_ (spendEdge_kept _)
    refine EnvKept.trans ?_ (applyActs_kept _ _)
    exact { EnvKept.refl s with }

/-- No slot left: nothing happens but that an unused edge is spent. -/
theorem boundary_nil {s : State} (h : s.env = []) : boundary s = (spendEdge s, .ok) := by simp [boundary, h]

/-- The slot that is next decides a boundary. -/
theorem boundary_cons {s : State} {l : Slot} {r : List Slot} (h : s.env = l :: r) :
    boundary s = (spendEdge (applyActs { s with env := r } l.acts), fateOf s.cfg l.fate) := by
  simp [boundary, h]

/-- An idle slot. -/
theorem boundary_idle {s : State} {r : List Slot} (h : s.env = idleSlot :: r) :
    boundary s = (spendEdge { s with env := r }, .ok) := by
  simp [boundary, h, idleSlot, applyActs, fateOf]

@[simp] theorem storeByte_env (a : Addr) (v : Byte) (s : State) : (storeByte a v s).env = s.env := by
  unfold storeByte; split <;> rfl

@[simp] theorem holdWrite_env (s : State) : (holdWrite s).env = s.env := by
  unfold holdWrite commitByte; split
  · exact storeByte_env _ _ s
  · rfl

/-- A boundary uses one slot, where there is one. -/
theorem applyAct_env (s : State) (a : EnvAct) : (applyAct s a).env = s.env := by
  cases a <;> simp only [applyAct] <;>
    first
      | rfl
      | (split
         · first
             | rfl
             | (unfold storeByte; split <;> rfl)
             | (simp only [holdWrite_env])
             | (rename_i x _; cases x <;> rfl)
         · rfl)

theorem applyActs_env (s : State) (l : List EnvAct) : (applyActs s l).env = s.env := by
  induction l generalizing s with
  | nil => rfl
  | cons a l ih => exact (ih (applyAct s a)).trans (applyAct_env s a)

@[simp] theorem boundary_env (s : State) : (boundary s).1.env = s.env.tail := by
  unfold boundary
  split
  · rename_i h; simp [spendEdge, h]
  · rename_i h; simp [spendEdge, applyActs_env, h]

/-- With a sound script the access that comes next is made, and the script stays sound (R184). -/
theorem boundary_sound {s : State} (h : Sound s) : (boundary s).2 = .ok ∧ Sound (boundary s).1 := by
  constructor
  · unfold boundary
    split
    · rfl
    · rename_i l r e
      exact h l (by rw [e]; exact List.mem_cons_self ..)
  · intro l hl
    rw [boundary_env] at hl
    rw [(boundary_kept s).cfg]
    exact h l (List.mem_of_mem_tail hl)

/-- With a script that does nothing a boundary only spends an edge. -/
theorem boundary_quiet {s : State} (h : Quiet s) :
    boundary s = (spendEdge { s with env := s.env.tail }, .ok) ∧ Quiet (boundary s).1 := by
  constructor
  · cases e : s.env with
    | nil =>
      rw [boundary_nil e]
      have : ({ s with env := [] } : State) = s := by rw [← e]
      simp only [List.tail_nil, this]
    | cons l r =>
      have : l = idleSlot := h l (by rw [e]; exact List.mem_cons_self ..)
      subst this
      rw [boundary_idle e]; rfl
  · intro l hl
    rw [boundary_env] at hl
    exact h l (List.mem_of_mem_tail hl)

/-! ### A target that is off the bus -/

/-- The target is off the bus and cannot take it back: it holds no bus, M1 is de-asserted, BUSREQ is not de-asserted,
and RESET is not asserted (R45). -/
structure OffBus (s : State) : Prop where
  bus : s.target.ownsBus = false
  m1 : s.target.m1 = false
  busreq : line s .busreq ≠ .deasserted
  reset : asserts s .reset = false

/-- What the world can change while the target is off the bus: INT, CLK, the clock, the user's events, the pending
cancellation. -/
structure WorldOnly (s t : State) : Prop extends EnvKept s t where
  target : t.target = { s.target with int := t.target.int, clk := t.target.clk, edge := t.target.edge }
  ioc : t.ioc = s.ioc

theorem WorldOnly.refl (s : State) : WorldOnly s s := { EnvKept.refl s with target := rfl, ioc := rfl }

theorem WorldOnly.trans {s t u : State} (h : WorldOnly s t) (k : WorldOnly t u) : WorldOnly s u :=
  { h.toEnvKept.trans k.toEnvKept with
    target := by rw [k.target, h.target]
    ioc := k.ioc.trans h.ioc }

/-- The lines are the registers' alone. -/
theorem EnvKept.line {s t : State} (h : EnvKept s t) (g : Signal) : line t g = line s g := by
  unfold Machine.line isOutput
  rw [h.cfg, h.dir, h.out]

theorem EnvKept.asserts {s t : State} (h : EnvKept s t) (g : Signal) : asserts t g = asserts s g := by
  unfold Machine.asserts
  rw [h.line]

theorem WorldOnly.offBus {s t : State} (h : WorldOnly s t) (o : OffBus s) : OffBus t where
  bus := by rw [h.target]; exact o.bus
  m1 := by rw [h.target]; exact o.m1
  busreq := by rw [h.line]; exact o.busreq
  reset := by rw [h.asserts]; exact o.reset

/-- An act of the environment against a target that is off the bus (R45 c). -/
theorem applyAct_offBus {s : State} (o : OffBus s) (a : EnvAct) : WorldOnly s (applyAct s a) := by
  have hk := applyAct_kept s a
  have hm : ({ s.target with m1 := false } : Target) = s.target := by rw [← o.m1]
  have key : applyAct s a = s ∨ WorldOnly s (applyAct s a) := by
    cases a with
    | grant => left; simp [applyAct, o.bus]
    | resume => left; simp [applyAct, o.busreq]
    | m1Assert => left; simp [applyAct, o.bus]
    | m1Deassert => left; simp only [applyAct, hm]; split <;> rfl
    | memWrite a v => left; simp [applyAct, o.bus]
    | io x => left; simp [applyAct, o.bus]
    | bank b => left; simp [applyAct, o.bus, o.reset]
    | int l => right; exact { hk with target := rfl, ioc := rfl }
    | clk l => right; exact { hk with target := rfl, ioc := rfl }
    | cancel =>
      by_cases h : inHandler s = true
      · left; simp [applyAct, h]
      · right
        have e : applyAct s .cancel = { s with cancel := true } := by simp [applyAct, h]
        rw [e] at hk ⊢
        exact { hk with target := rfl, ioc := rfl }
    | user e => right; exact { hk with target := rfl, ioc := rfl }
    | elapse d =>
      by_cases h : 0 ≤ d.num
      · right
        have e : applyAct s (.elapse d) = { s with now := s.now + d } := by simp [applyAct, h]
        rw [e] at hk ⊢
        exact { hk with target := rfl, ioc := rfl }
      · left; simp [applyAct, h]
  cases key with
  | inl h => rw [h]; exact WorldOnly.refl s
  | inr h => exact h

theorem applyActs_offBus {s : State} (o : OffBus s) (l : List EnvAct) : WorldOnly s (applyActs s l) := by
  induction l generalizing s with
  | nil => exact WorldOnly.refl s
  | cons a l ih =>
    have h := applyAct_offBus o a
    exact h.trans (ih (h.offBus o))

/-- ALL OF A BOUNDARY against a target that is off the bus, whatever the script says (R45 c). -/
theorem boundary_offBus {s : State} (o : OffBus s) : WorldOnly s (boundary s).1 := by
  unfold boundary
  split
  · exact { spendEdge_kept s with target := rfl, ioc := rfl }
  · rename_i l r e
    have h0 : WorldOnly s { s with env := r } := { EnvKept.refl s with target := rfl, ioc := rfl }
    have h1 := applyActs_offBus (h0.offBus o) l.acts
    refine (h0.trans h1).trans ?_
    exact { spendEdge_kept _ with target := rfl, ioc := rfl }

end Sys2Proof.Machine
end

