-- ==== Sys2Proof/Laws/Lines.lean ====
section
/-! SUPPORT. Lines, windows and register writes: which line a write of a latch changes, what the board can do at a
register write, and everything a primitive can change. -/

namespace Sys2Proof.Machine

/-! ### Lines -/

/-- A line depends on the directions, the latches and the parameters. -/
theorem line_congr {s t : State} (hc : t.cfg = s.cfg) (hd : t.dir = s.dir) (ho : t.out = s.out) (g : Signal) :
    line t g = line s g := by
  unfold line isOutput
  rw [hc, hd, ho]

/-- Distinct signals have distinct pins (R13). -/
theorem PinMap.WellFormed.pin_ne {p : PinMap} (h : p.WellFormed) {g k : Signal} (hne : g ≠ k) : p.pin g ≠ p.pin k := by
  intro e
  have hn := h.1
  have hg : g ∈ Signal.all := by cases g <;> decide
  have hk : k ∈ Signal.all := by cases k <;> decide
  exact hne (List.inj_on_of_nodup_map hn hg hk e)

/-- The write of one signal's latch bit leaves every other line. -/
theorem line_setPin_other {s : State} (h : s.cfg.pins.WellFormed) {g k : Signal} (l : Bool) (hne : k ≠ g) :
    line { s with out := setPin s.out (s.cfg.pins.pin g) l } k = line s k := by
  have e := getPin_setPin_other s.out l (PinMap.WellFormed.pin_ne h hne)
  unfold line isOutput
  dsimp only
  rw [e]

/-- The write of a driven signal's latch bit decides its line (R15). -/
theorem line_setPin_same {s : State} {g : Signal} (l : Bool) (hd : isOutput s (s.cfg.pins.pin g) = true) :
    line { s with out := setPin s.out (s.cfg.pins.pin g) l } g =
      if l = assertedLevel s.cfg g then .asserted else .deasserted := by
  have hd' : isOutput { s with out := setPin s.out (s.cfg.pins.pin g) l } (s.cfg.pins.pin g) = true := hd
  unfold line
  rw [if_pos hd']
  simp only [getPin_setPin_same]

/-- A floating line does not see its latch (R15). -/
theorem line_floating {s : State} {g : Signal} (hd : isOutput s (s.cfg.pins.pin g) = false) : line s g = .floating := by
  simp [line, hd]

/-! ### What the board does at a register write -/

/-- A window that is closed after the write does not act. -/
theorem acting_closed {w : State → Bool} {old new : State} (h : w new = false) : acting w old new = false := by
  simp [acting, h]

/-- A window that was open already acts only with the bus Acquired. -/
theorem acting_released {w : State → Bool} {old new : State} (ho : new.own = .released)
    (h : w new = true → w old = true) : acting w old new = false := by
  cases hn : w new with
  | false => exact acting_closed hn
  | true => simp [acting, ho, h hn]

/-- The board does nothing where no window acts, RESET and CLKEN stay and CLKOUT makes no edge. -/
theorem react_none {old new : State} (hm : acting memWriteWindow old new = false)
    (hw : acting ioWriteWindow old new = false) (hr : acting ioReadWindow old new = false)
    (hs : asserts new .reset = asserts old .reset) (hc : line new .clken = line old .clken)
    (hk : line new .clken = .deasserted → clkoutHigh new = clkoutHigh old) : react old new = new := by
  have e1 : memWriteReact old new = new := by simp [memWriteReact, hm]
  have e2 : ioWriteReact old new = new := by simp [ioWriteReact, hw]
  have e3 : ioReadReact old new = new := by simp [ioReadReact, hr]
  have e4 : resetReact old new = new := by
    unfold resetReact
    rw [hs]
    cases asserts old .reset <;> simp
  have e5 : clockReact old new = new := by
    unfold clockReact
    split
    · rename_i h
      simp only [hc, bne_self_eq_false, Bool.false_or, Bool.and_eq_true, beq_iff_eq, bne_iff_ne] at h
      exact absurd (hk (by rw [hc]; exact h.1)) h.2
    · rfl
  unfold react
  rw [e1, e2, e3, e4, e5]

/-- What the board never touches at a register write: everything but the target and the free values drawn. -/
structure BoardOnly (s t : State) : Prop where
  eq : t = { s with target := t.target, draws := t.draws }
  ownsBus : t.target.ownsBus = s.target.ownsBus
  m1 : t.target.m1 = s.target.m1
  int : t.target.int = s.target.int
  clk : t.target.clk = s.target.clk
  memory : s.target.mem.wf = true → t.target.mem.wf = true

theorem BoardOnly.refl (s : State) : BoardOnly s s := ⟨rfl, rfl, rfl, rfl, rfl, fun h => h⟩

theorem BoardOnly.trans {s t u : State} (h : BoardOnly s t) (k : BoardOnly t u) : BoardOnly s u where
  eq := by rw [k.eq, h.eq]
  ownsBus := k.ownsBus.trans h.ownsBus
  m1 := k.m1.trans h.m1
  int := k.int.trans h.int
  clk := k.clk.trans h.clk
  memory x := k.memory (h.memory x)

theorem storeByte_board (a : Addr) (v : Byte) (s : State) (n : Nat) :
    BoardOnly s { storeByte a v s with draws := n } := by
  unfold storeByte
  split
  · exact ⟨rfl, rfl, rfl, rfl, rfl, fun h => Memory.wf_write _ _ _ h⟩
  · exact ⟨rfl, rfl, rfl, rfl, rfl, fun h => h⟩

theorem holdWrite_board (s : State) : BoardOnly s (holdWrite s) := by
  unfold holdWrite
  split
  · exact storeByte_board _ _ _ _
  · exact BoardOnly.refl s

theorem ioAccess_board (x : IoAccess) (s : State) (n : Nat) : BoardOnly s { ioAccess x s with draws := n } := by
  cases x <;> exact ⟨rfl, rfl, rfl, rfl, rfl, fun h => h⟩

/-- ALL THAT THE BOARD CAN DO at a register write (R47 to R52, R130). -/
theorem react_board (old new : State) : BoardOnly new (react old new) := by
  have h1 : BoardOnly new (memWriteReact old new) := by
    unfold memWriteReact; split
    · exact storeByte_board _ _ _ _
    · exact BoardOnly.refl _
  have h2 (x : State) : BoardOnly x (ioWriteReact old x) := by
    unfold ioWriteReact; split
    · exact (ioAccess_board _ x _).trans (holdWrite_board _)
    · exact BoardOnly.refl _
  have h3 (x : State) : BoardOnly x (ioReadReact old x) := by
    unfold ioReadReact; split
    · exact ioAccess_board _ _ _
    · exact BoardOnly.refl _
  have h4 (x : State) : BoardOnly x (resetReact old x) := by
    unfold resetReact; split
    · exact ⟨rfl, rfl, rfl, rfl, rfl, fun h => h⟩
    · split
      · exact ⟨rfl, rfl, rfl, rfl, rfl, fun h => h⟩
      · exact BoardOnly.refl _
  have h5 (x : State) : BoardOnly x (clockReact old x) := by
    unfold clockReact; split
    · exact ⟨rfl, rfl, rfl, rfl, rfl, fun h => h⟩
    · exact BoardOnly.refl _
  exact (((h1.trans (h2 _)).trans (h3 _)).trans (h4 _)).trans (h5 _)

/-! ### What a primitive can change -/

/-- What no primitive touches: the controller's flags, its records, the environment and the caller. -/
structure AccessKept (s t : State) : Prop where
  cfg : t.cfg = s.cfg
  own : t.own = s.own
  clockMode : t.clockMode = s.clockMode
  arm : t.arm = s.arm
  seq : t.seq = s.seq
  polls : t.polls = s.polls
  t0 : t.t0 = s.t0
  fault : t.fault = s.fault
  raised : t.raised = s.raised
  killed : t.killed = s.killed
  result : t.result = s.result
  now : t.now = s.now
  cancel : t.cancel = s.cancel
  users : t.users = s.users
  env : t.env = s.env
  requests : t.requests = s.requests
  console : t.console = s.console
  ownsBus : t.target.ownsBus = s.target.ownsBus
  m1 : t.target.m1 = s.target.m1
  int : t.target.int = s.target.int
  clk : t.target.clk = s.target.clk
  memory : s.target.mem.wf = true → t.target.mem.wf = true

theorem AccessKept.refl (s : State) : AccessKept s s := by constructor <;> first | rfl | exact fun h => h

theorem AccessKept.trans {s t u : State} (h : AccessKept s t) (k : AccessKept t u) : AccessKept s u where
  cfg := k.cfg.trans h.cfg
  own := k.own.trans h.own
  clockMode := k.clockMode.trans h.clockMode
  arm := k.arm.trans h.arm
  seq := k.seq.trans h.seq
  polls := k.polls.trans h.polls
  t0 := k.t0.trans h.t0
  fault := k.fault.trans h.fault
  raised := k.raised.trans h.raised
  killed := k.killed.trans h.killed
  result := k.result.trans h.result
  now := k.now.trans h.now
  cancel := k.cancel.trans h.cancel
  users := k.users.trans h.users
  env := k.env.trans h.env
  requests := k.requests.trans h.requests
  console := k.console.trans h.console
  ownsBus := k.ownsBus.trans h.ownsBus
  m1 := k.m1.trans h.m1
  int := k.int.trans h.int
  clk := k.clk.trans h.clk
  memory x := k.memory (h.memory x)

theorem BoardOnly.kept {s t : State} (h : BoardOnly s t) : AccessKept s t := by
  constructor <;> first | exact h.ownsBus | exact h.m1 | exact h.int | exact h.clk | exact h.memory | (rw [h.eq])

theorem BoardOnly.trace {s t : State} (h : BoardOnly s t) : t.trace = s.trace := by rw [h.eq]
theorem BoardOnly.dir {s t : State} (h : BoardOnly s t) : t.dir = s.dir := by rw [h.eq]
theorem BoardOnly.out {s t : State} (h : BoardOnly s t) : t.out = s.out := by rw [h.eq]
theorem BoardOnly.ioc {s t : State} (h : BoardOnly s t) : t.ioc = s.ioc := by rw [h.eq]

theorem storeWrite_kept (w : RegWrite) (s : State) : AccessKept s (storeWrite w s) := by
  cases w with
  | iocBit f i v => cases f <;> exact { AccessKept.refl s with }
  | _ => exact { AccessKept.refl s with }

@[simp] theorem storeWrite_trace (w : RegWrite) (s : State) : (storeWrite w s).trace = s.trace := by
  cases w with
  | iocBit f i v => cases f <;> rfl
  | _ => rfl

theorem applyWrite_kept (s : State) (w : RegWrite) : AccessKept s (applyWrite s w) :=
  (storeWrite_kept w s).trans (react_board s _).kept

@[simp] theorem applyWrite_trace (s : State) (w : RegWrite) : (applyWrite s w).trace = s.trace := by
  unfold applyWrite
  rw [(react_board s _).trace, storeWrite_trace]

/-- The directions after a register write are those that the write itself stores. -/
theorem applyWrite_dir (s : State) (w : RegWrite) : (applyWrite s w).dir = (storeWrite w s).dir :=
  (react_board s _).dir

/-- The latches after a register write are those that the write itself stores. -/
theorem applyWrite_out (s : State) (w : RegWrite) : (applyWrite s w).out = (storeWrite w s).out :=
  (react_board s _).out

/-- The interrupt-on-change registers after a register write are those that the write itself stores. -/
theorem applyWrite_ioc (s : State) (w : RegWrite) : (applyWrite s w).ioc = (storeWrite w s).ioc :=
  (react_board s _).ioc

theorem applyWrites_kept (s : State) (l : List RegWrite) : AccessKept s (applyWrites s l) := by
  induction l generalizing s with
  | nil => exact AccessKept.refl s
  | cons w l ih => exact (applyWrite_kept s w).trans (ih _)

@[simp] theorem applyWrites_trace (s : State) (l : List RegWrite) : (applyWrites s l).trace = s.trace := by
  induction l generalizing s with
  | nil => rfl
  | cons w l ih => exact (ih _).trans (applyWrite_trace s w)

theorem touchPort_kept (p : Port) (s : State) : AccessKept s (touchPort p s) := { AccessKept.refl s with }

/-- ALL OF AN ACCESS: what it leaves alone. -/
theorem accessEffect_kept (p : Prim) (s : State) : AccessKept s (accessEffect p s) := by
  cases p <;> first
    | exact applyWrites_kept _ _
    | exact touchPort_kept _ _
    | exact AccessKept.refl s

@[simp] theorem accessEffect_trace (p : Prim) (s : State) : (accessEffect p s).trace = s.trace := by
  cases p <;> first
    | exact applyWrites_trace _ _
    | rfl

theorem abortEffect_kept (p : Prim) (n : Nat) (s : State) : AccessKept s (abortEffect p n s) := by
  cases p <;> simp only [abortEffect] <;> first
    | exact applyWrites_kept _ _
    | (split
       · exact AccessKept.refl s
       · exact accessEffect_kept _ s)

@[simp] theorem abortEffect_trace (p : Prim) (n : Nat) (s : State) : (abortEffect p n s).trace = s.trace := by
  cases p <;> simp only [abortEffect] <;> first
    | exact applyWrites_trace _ _
    | (split
       · rfl
       · exact accessEffect_trace _ s)

/-- ALL OF A PRIMITIVE THAT COMPLETES: what it leaves alone. -/
theorem perform_kept (p : Prim) (s : State) : AccessKept s (perform p s) :=
  (accessEffect_kept p s).trans { AccessKept.refl _ with }

/-- A primitive that completes appends its one event (R7). -/
@[simp] theorem perform_trace (p : Prim) (s : State) : (perform p s).trace = s.trace ++ [eventOf p s] := by
  simp [perform, emit]

/-- The directions after a primitive that completes. -/
@[simp] theorem perform_dir (p : Prim) (s : State) : (perform p s).dir = (accessEffect p s).dir := rfl

/-- The latches after a primitive that completes. -/
@[simp] theorem perform_out (p : Prim) (s : State) : (perform p s).out = (accessEffect p s).out := rfl

/-- The interrupt-on-change registers after a primitive that completes. -/
@[simp] theorem perform_ioc (p : Prim) (s : State) : (perform p s).ioc = (accessEffect p s).ioc := rfl

end Sys2Proof.Machine
end

