-- ==== Sys2Proof/Laws/Sequencer.lean ====
section
/-! SUPPORT. The sequencer's operations, each said once: an access, a sleep, a tick, a run, an issue. -/

namespace Sys2Proof.Machine

/-- ALL THAT AN ACCESS CAN DO (R184, R187, R192): a pending cancellation is taken where it can be; else the access is
made, or aborts, or the controller is killed. -/
theorem access_cases (p : Prim) (pos : Pos) (k : State → State) (s : State) :
    ((cancellable (boundary s).1.seq && (boundary s).1.cancel) = true ∧
        access p pos k s = takeCancel (boundary s).1) ∨
      ((cancellable (boundary s).1.seq && (boundary s).1.cancel) = false ∧
        ((boundary s).2 = .ok ∧ access p pos k s = k (boundary s).1 ∨
          (∃ n, (boundary s).2 = .abort n ∧
            access p pos k s = raiseFault (.transportAbort p pos) (abortEffect p n (boundary s).1)) ∨
          (boundary s).2 = .kill ∧ access p pos k s = takeKill (boundary s).1)) := by
  unfold access
  dsimp only
  split
  · rename_i h; exact Or.inl ⟨h, rfl⟩
  · rename_i h
    refine Or.inr ⟨by simpa using h, ?_⟩
    cases hf : (boundary s).2 with
    | ok => exact Or.inl ⟨rfl, rfl⟩
    | abort n => exact Or.inr (Or.inl ⟨n, rfl, rfl⟩)
    | kill => exact Or.inr (Or.inr ⟨rfl, rfl⟩)

/-- An access that nothing disturbs. -/
theorem access_ok {p : Prim} {pos : Pos} {k : State → State} {s : State}
    (hc : (cancellable (boundary s).1.seq && (boundary s).1.cancel) = false) (hf : (boundary s).2 = .ok) :
    access p pos k s = k (boundary s).1 := by
  unfold access
  simp only [hc, hf, Bool.false_eq_true, if_false]

/-- ALL THAT A SLEEP CAN DO (R8, R192): a cancellation is taken before it or inside it, the controller is killed before
it or inside it, or it runs its time. -/
theorem sleepFor_cases (d : State → Quantity) (k : State → State) (s : State) :
    sleepFor d k s = takeCancel (boundary s).1 ∨ sleepFor d k s = takeKill (boundary s).1 ∨
      sleepFor d k s =
        takeCancel (emit (.sleep (d (boundary s).1) true) (boundary (boundary s).1).1) ∨
      sleepFor d k s = takeKill (boundary (boundary s).1).1 ∨
      sleepFor d k s =
        k (emit (.sleep (d (boundary s).1) false)
          { (boundary (boundary s).1).1 with
            now := (boundary (boundary s).1).1.now + d (boundary s).1 }) := by
  unfold sleepFor
  dsimp only
  repeat' split
  · exact Or.inl rfl
  · exact Or.inr (Or.inl rfl)
  · exact Or.inr (Or.inr (Or.inl rfl))
  · exact Or.inr (Or.inr (Or.inr (Or.inl rfl)))
  · exact Or.inr (Or.inr (Or.inr (Or.inr rfl)))

/-- A sleep that nothing disturbs. -/
theorem sleepFor_ok {d : State → Quantity} {k : State → State} {s : State}
    (hc : (cancellable (boundary s).1.seq && (boundary s).1.cancel) = false) (hf : (boundary s).2 ≠ .kill)
    (hc' : (cancellable (boundary (boundary s).1).1.seq && (boundary (boundary s).1).1.cancel) = false)
    (hf' : (boundary (boundary s).1).2 ≠ .kill) :
    sleepFor d k s =
      k (emit (.sleep (d (boundary s).1) false)
        { (boundary (boundary s).1).1 with now := (boundary (boundary s).1).1.now + d (boundary s).1 }) := by
  unfold sleepFor
  simp only [hc, hf, hc', hf', Bool.false_eq_true, if_false]

/-- ALL THAT A BOUNDARY WITH NO ACCESS AFTER IT CAN DO: a kill, or the environment's acts and what follows. -/
theorem settle_cases (k : State → State) (s : State) :
    ((boundary s).2 = .kill ∧ settle k s = takeKill (boundary s).1) ∨
      ((boundary s).2 ≠ .kill ∧ settle k s = k (boundary s).1) := by
  unfold settle
  split
  · rename_i h; exact Or.inl ⟨h, rfl⟩
  · rename_i h; exact Or.inr ⟨h, rfl⟩

/-- ALL THAT RAISING A FAULT CAN DO (R9, R184, R191). -/
theorem raiseFault_spec (f : Fault) (s : State) :
    raiseFault f s = { s with fault := some f, raised := some f, polls := 0, seq := (raiseFault f s).seq } := rfl

/-- ALL THAT A TIMEOUT CAN DO (R100, R182): the cleanup begins with no fault set yet, or the fault is raised. -/
theorem timeOut_cases (w : Wait) (c : Option Nat) (s : State) :
    (∃ k, c = some k ∧ timeOut w c s = jumpTo k s) ∨ (c = none ∧ timeOut w c s = raiseFault (.timeout w) s) := by
  cases c with
  | some k => exact Or.inl ⟨k, rfl, rfl⟩
  | none => exact Or.inr ⟨rfl, rfl⟩

/-- A tick carries out the line at which the sequencer stands. -/
theorem tick_line {prog : List ProgLine} {s : State} {i : Instr} {k : Nat} {l : ProgLine}
    (hs : s.seq = .running i k) (hl : prog[k]? = some l) : tick prog s = doLine k l s := by
  unfold tick
  rw [hs]
  simp only [hl]

/-- A tick past the last line returns. -/
theorem tick_end {prog : List ProgLine} {s : State} {i : Instr} {k : Nat} (hs : s.seq = .running i k)
    (hl : prog[k]? = none) : tick prog s = opReturn s := by
  unfold tick
  rw [hs]
  simp only [hl]

theorem tick_idle {prog : List ProgLine} {s : State} (hs : s.seq = .idle) : tick prog s = s := by
  unfold tick
  rw [hs]

/-- An idle sequencer runs nothing. -/
theorem runProg_idle {prog : List ProgLine} {s : State} (n : Nat) (hs : s.seq = .idle) : runProg prog n s = s := by
  cases n with
  | zero => rfl
  | succ n => simp [runProg, hs]

/-- A tick that goes forward is followed by the rest of the run. -/
theorem runProg_forward {prog : List ProgLine} {s : State} {i : Instr} {k : Nat} (n : Nat)
    (hs : s.seq = .running i k) (hp : parked s.seq (tick prog s).seq (tick prog s).env = false) :
    runProg prog (n + 1) s = runProg prog n (tick prog s) := by
  rw [runProg, if_neg (by rw [hs]; exact Seq.noConfusion), if_neg (by rw [hp]; exact Bool.false_ne_true)]

/-- A sequencer that waits stops the run. -/
theorem runProg_parked {prog : List ProgLine} {s : State} {i : Instr} {k : Nat} (n : Nat)
    (hs : s.seq = .running i k) (hp : parked s.seq (tick prog s).seq (tick prog s).env = true) :
    runProg prog (n + 1) s = tick prog s := by
  rw [runProg, if_neg (by rw [hs]; exact Seq.noConfusion), if_pos hp]

/-- Nothing waits while the lines go on in their order. -/
theorem parked_forward {q : Seq} {i j : Instr} {k m : Nat} {e : List Slot} (hq : q = .running i k) (h : k < m) :
    parked q (.running j m) e = false := by
  subst hq
  simp [parked, Nat.not_le.mpr h]

/-- Nothing waits while the environment's script goes on. -/
theorem parked_script {q r : Seq} {e : List Slot} (h : e ≠ []) : parked q r e = false := by
  unfold parked
  split
  · cases e with
    | nil => exact absurd rfl h
    | cons a l => simp
  · rfl

theorem parked_idle (q : Seq) (e : List Slot) : parked q .idle e = false := by
  cases q <;> rfl

/-- What a tick keeps a run keeps. -/
theorem runProg_induct {prog : List ProgLine} {P : State → Prop}
    (h : ∀ s i k, s.seq = .running i k → P s → P (tick prog s)) (n : Nat) {s : State} (hs : P s) :
    P (runProg prog n s) := by
  induction n generalizing s with
  | zero => exact hs
  | succ n ih =>
    cases hq : s.seq with
    | idle => rw [runProg_idle _ hq]; exact hs
    | running i k =>
      have ht := h s i k hq hs
      cases hp : parked s.seq (tick prog s).seq (tick prog s).env with
      | true => rw [runProg_parked n hq hp]; exact ht
      | false => rw [runProg_forward n hq hp]; exact ih ht

/-- More fuel than it takes to return changes nothing. -/
theorem runProg_more {prog : List ProgLine} {n m : Nat} (h : n ≤ m) {s : State} (hi : (runProg prog n s).seq = .idle) :
    runProg prog m s = runProg prog n s := by
  induction n generalizing s m with
  | zero => exact runProg_idle m hi
  | succ n ih =>
    obtain ⟨m, rfl⟩ : ∃ k, m = k + 1 := ⟨m - 1, by omega⟩
    cases hq : s.seq with
    | idle => rw [runProg_idle _ hq, runProg_idle _ hq]
    | running i k =>
      cases hp : parked s.seq (tick prog s).seq (tick prog s).env with
      | true => rw [runProg_parked n hq hp, runProg_parked m hq hp]
      | false =>
        rw [runProg_forward n hq hp] at hi ⊢
        rw [runProg_forward m hq hp]
        exact ih (by omega) hi

/-- The operand domains, once as a check and once as a proposition (R61, R70). -/
theorem badOperand_none (i : Instr) : badOperand i = none ↔ i.WellFormed := by
  cases i <;> simp only [badOperand, Instr.WellFormed] <;> first
    | exact ⟨fun _ => trivial, fun _ => rfl⟩
    | (split <;> simp_all)

/-- ALL THAT ISSUING AN OPERATION CAN DO (R187). -/
theorem issue_cases (i : Instr) (a : Bool) (prog : List ProgLine) (s : State) :
    (¬ i.WellFormed ∧ ∃ o v, issue i a prog s = .refused (.invalidArgument o v)) ∨
      (i.WellFormed ∧ s.seq ≠ .idle ∧ issue i a prog s = .refused (.sequencerBusy (opOf i))) ∨
      (i.WellFormed ∧ s.seq = .idle ∧ a = true ∧ issue i a prog s = .next (runOp prog (beginOp i s))) ∨
      (i.WellFormed ∧ s.seq = .idle ∧ a = false ∧
        issue i a prog s = .refused (.wrongState (opOf i) s.own s.clockMode s.arm)) := by
  unfold issue
  cases hb : badOperand i with
  | some x =>
    obtain ⟨o, v⟩ := x
    refine Or.inl ⟨?_, o, v, rfl⟩
    intro hw
    rw [(badOperand_none i).mpr hw] at hb
    exact absurd hb (by simp)
  | none =>
    have hw := (badOperand_none i).mp hb
    by_cases hs : s.seq = .idle
    · cases a with
      | true => exact Or.inr (Or.inr (Or.inl ⟨hw, hs, rfl, by simp [hs]⟩))
      | false => exact Or.inr (Or.inr (Or.inr ⟨hw, hs, rfl, by simp [hs]⟩))
    · exact Or.inr (Or.inl ⟨hw, hs, by simp [hs]⟩)

/-- Every meaning is an issue of the operation's program. -/
theorem exec_issue (i : Instr) (s : State) : ∃ a, exec i s = issue i a (programOf s.cfg i) s := by
  cases i <;> exact ⟨_, rfl⟩

/-- An operation that is issued where it is defined runs its program from line 0. -/
theorem issue_next {i : Instr} {a : Bool} {prog : List ProgLine} {s : State} (hw : i.WellFormed) (hs : s.seq = .idle)
    (ha : a = true) : issue i a prog s = .next (runOp prog (beginOp i s)) := by
  simp [issue, (badOperand_none i).mpr hw, hs, ha]

/-- What an operation in a command's scope leads to: where it is refused the handler runs, elsewhere it is as it is. -/
theorem issueInScope_cases (i : Instr) (r : CommandRest) (s : State) :
    (∃ why, exec i (pushRest r s) = .refused why ∧ issueInScope i r s = leaveScope (some why) s) ∨
      ((∀ why, exec i (pushRest r s) ≠ .refused why) ∧ issueInScope i r s = exec i (pushRest r s)) := by
  unfold issueInScope
  split
  · next why h => exact Or.inl ⟨why, h, rfl⟩
  · next h => exact Or.inr ⟨fun why hw => h why hw, rfl⟩

end Sys2Proof.Machine
end

