-- ==== Sys2Proof/Laws/Fields.lean ====
section
/-! SUPPORT. The fields of a packed word: what `pack` puts where, and that a word is the pack of its fields (R63). -/

namespace Sys2Proof

theorem getLsbD_pack (op : BitVec 4) (f : BitVec 1) (hw : Addr) (b : Byte) (i : Nat) :
    (pack op f hw b).getLsbD i =
      if i < 8 then b.getLsbD i else if i < 24 then hw.getLsbD (i - 8) else if i < 27 then false
      else if i < 28 then f.getLsbD (i - 27) else op.getLsbD (i - 28) := by
  unfold pack
  simp only [BitVec.getLsbD_append]
  by_cases h1 : i < 8
  · simp [h1, show i < 1 + (3 + (16 + 8)) by omega, show i < 3 + (16 + 8) by omega, show i < 16 + 8 by omega]
  · by_cases h2 : i < 24
    · simp [h1, h2, show i < 1 + (3 + (16 + 8)) by omega, show i < 3 + (16 + 8) by omega]
    · by_cases h3 : i < 27
      · simp [h1, h2, h3, show i < 1 + (3 + (16 + 8)) by omega]
      · by_cases h4 : i < 28
        · simp [h1, h2, h3, h4]
        · simp [h1, h2, h3, h4]

/-- The op field of a packed word. -/
@[simp] theorem opField_pack (op : BitVec 4) (f : BitVec 1) (hw : Addr) (b : Byte) : opField (pack op f hw b) = op := by
  apply BitVec.eq_of_getLsbD_eq
  intro i hi
  simp only [opField, BitVec.getLsbD_extractLsb', getLsbD_pack, hi, decide_true, Bool.true_and]
  rw [if_neg (by omega), if_neg (by omega), if_neg (by omega), if_neg (by omega)]
  congr 1
  omega

/-- The flag of a packed word. -/
@[simp] theorem flagField_pack (op : BitVec 4) (f : BitVec 1) (hw : Addr) (b : Byte) :
    flagField (pack op f hw b) = f := by
  apply BitVec.eq_of_getLsbD_eq
  intro i hi
  simp only [flagField, BitVec.getLsbD_extractLsb', getLsbD_pack, hi, decide_true, Bool.true_and]
  rw [if_neg (by omega), if_neg (by omega), if_neg (by omega), if_pos (by omega)]
  congr 1
  omega

/-- The reserved field of a packed word is 0. -/
@[simp] theorem reservedField_pack (op : BitVec 4) (f : BitVec 1) (hw : Addr) (b : Byte) :
    reservedField (pack op f hw b) = 0#3 := by
  apply BitVec.eq_of_getLsbD_eq
  intro i hi
  simp only [reservedField, BitVec.getLsbD_extractLsb', getLsbD_pack, hi, decide_true, Bool.true_and]
  rw [if_neg (by omega), if_neg (by omega), if_pos (by omega)]
  simp

/-- The halfword of a packed word. -/
@[simp] theorem hwField_pack (op : BitVec 4) (f : BitVec 1) (hw : Addr) (b : Byte) : hwField (pack op f hw b) = hw := by
  apply BitVec.eq_of_getLsbD_eq
  intro i hi
  simp only [hwField, BitVec.getLsbD_extractLsb', getLsbD_pack, hi, decide_true, Bool.true_and]
  rw [if_neg (by omega), if_pos (by omega)]
  congr 1
  omega

/-- The byte of a packed word. -/
@[simp] theorem byteField_pack (op : BitVec 4) (f : BitVec 1) (hw : Addr) (b : Byte) :
    byteField (pack op f hw b) = b := by
  apply BitVec.eq_of_getLsbD_eq
  intro i hi
  simp only [byteField, BitVec.getLsbD_extractLsb', getLsbD_pack, hi, decide_true, Bool.true_and]
  rw [if_pos (by omega)]
  congr 1
  omega

/-- A word whose reserved field is 0 is the pack of its fields. -/
theorem pack_fields {w : Word} (h : reservedField w = 0#3) :
    pack (opField w) (flagField w) (hwField w) (byteField w) = w := by
  apply BitVec.eq_of_getLsbD_eq
  intro i hi
  rw [getLsbD_pack]
  simp only [opField, flagField, hwField, byteField, BitVec.getLsbD_extractLsb']
  split
  · simp_all
  · split
    · have e : 8 + (i - 8) = i := by omega
      have e2 : i - 8 < 16 := by omega
      simp [e, e2]
    · split
      · have hr := congrArg (fun x : BitVec 3 => x.getLsbD (i - 24)) h
        have e : 24 + (i - 24) = i := by omega
        have e2 : i - 24 < 3 := by omega
        simpa [reservedField, BitVec.getLsbD_extractLsb', e, e2] using hr.symm
      · split
        · have e : 27 + (i - 27) = i := by omega
          have e2 : i - 27 < 1 := by omega
          simp [e, e2]
        · have e : 28 + (i - 28) = i := by omega
          have e2 : i - 28 < 4 := by omega
          simp [e, e2]

/-- A check of unused fields that passes answers the command, and the fields it looked at are 0. -/
theorem checkUnused_command {w : Word} {a b c : Bool} {i j : Instr} (h : checkUnused w a b c i = .command j) :
    j = i ∧ reservedField w = 0#3 ∧ (a = true → flagField w = 0#1) ∧ (b = true → hwField w = 0#16) ∧
      (c = true → byteField w = 0#8) := by
  unfold checkUnused at h
  by_cases h1 : reservedField w ≠ 0#3
  · simp [h1] at h
  · rw [if_neg h1] at h
    by_cases h2 : a = true ∧ flagField w ≠ 0#1
    · rw [if_pos h2] at h; simp at h
    · rw [if_neg h2] at h
      by_cases h3 : b = true ∧ hwField w ≠ 0#16
      · rw [if_pos h3] at h; simp at h
      · rw [if_neg h3] at h
        by_cases h4 : c = true ∧ byteField w ≠ 0#8
        · rw [if_pos h4] at h; simp at h
        · rw [if_neg h4] at h
          refine ⟨by simpa using h.symm, by simpa using h1, ?_, ?_, ?_⟩
          · intro x; by_contra y; exact h2 ⟨x, y⟩
          · intro x; by_contra y; exact h3 ⟨x, y⟩
          · intro x; by_contra y; exact h4 ⟨x, y⟩

/-- A check of unused fields passes where they are 0. -/
theorem checkUnused_ok {w : Word} {a b c : Bool} {i : Instr} (h0 : reservedField w = 0#3)
    (h1 : a = true → flagField w = 0#1) (h2 : b = true → hwField w = 0#16) (h3 : c = true → byteField w = 0#8) :
    checkUnused w a b c i = .command i := by
  unfold checkUnused
  rw [if_neg (by simp [h0]), if_neg (fun x => x.2 (h1 x.1)), if_neg (fun x => x.2 (h2 x.1)),
    if_neg (fun x => x.2 (h3 x.1))]

end Sys2Proof
end

