-- ==== Sys2Proof/Laws/PerInstr.lean ====
section
/-! SUPPORT. Per instruction, as syntax: the op field of its word is its ordinal (R60) and the reserved field is 0
(R63). -/

namespace Sys2Proof.Laws.EncodedFields

/-- The op field and the reserved field of an instruction's word (R63). -/
def Statement (i : Instr) : Prop := (opField (encode i)).toNat = ordinal i ∧ reservedField (encode i) = 0#3

theorem reset : Statement .reset :=
  ⟨by simp [encode, ordinal], by simp [encode]⟩

theorem takeBus : Statement .takeBus :=
  ⟨by simp [encode, ordinal], by simp [encode]⟩

theorem takeBusBank (bank : Nat) : Statement (.takeBusBank bank) :=
  ⟨by simp [encode, ordinal], by simp [encode]⟩

theorem releaseBus (reset : Bool) : Statement (.releaseBus reset) :=
  ⟨by simp [encode, ordinal], by simp [encode]⟩

theorem memRead (addr : Nat) : Statement (.memRead addr) :=
  ⟨by simp [encode, ordinal], by simp [encode]⟩

theorem memWrite (addr data : Nat) : Statement (.memWrite addr data) :=
  ⟨by simp [encode, ordinal], by simp [encode]⟩

theorem ioRead (addr : Nat) : Statement (.ioRead addr) :=
  ⟨by simp [encode, ordinal], by simp [encode]⟩

theorem ioWrite (addr data : Nat) : Statement (.ioWrite addr data) :=
  ⟨by simp [encode, ordinal], by simp [encode]⟩

theorem normalClock : Statement .normalClock :=
  ⟨by simp [encode, ordinal], by simp [encode]⟩

theorem slowClock (rate : Quantity) : Statement (.slowClock rate) :=
  ⟨by simp [encode, ordinal], by simp [encode]⟩

theorem singlestepOn : Statement .singlestepOn :=
  ⟨by simp [encode, ordinal], by simp [encode]⟩

theorem singlestepOff : Statement .singlestepOff :=
  ⟨by simp [encode, ordinal], by simp [encode]⟩

theorem autostep (rate : Quantity) : Statement (.autostep rate) :=
  ⟨by simp [encode, ordinal], by simp [encode]⟩

theorem stepWait : Statement .stepWait :=
  ⟨by simp [encode, ordinal], by simp [encode]⟩

theorem m1ReleaseWait : Statement .m1ReleaseWait :=
  ⟨by simp [encode, ordinal], by simp [encode]⟩

theorem latchAddress (addr : Nat) : Statement (.latchAddress addr) :=
  ⟨by simp [encode, ordinal], by simp [encode]⟩

theorem bankSelect (bank : Nat) : Statement (.bankSelect bank) :=
  ⟨by simp [encode, ordinal], by simp [encode]⟩

end Sys2Proof.Laws.EncodedFields
end

