-- ==== Sys2Proof/Tests/Slice0.lean ====
section
/-! SUPPORT. Tests: the checks of WellFormed and of the decoder with terms they refuse, the words and vectors that the
spec writes out (95_test_vectors.md), one small run of each operation, and for every statement a state and operands
that meet its hypotheses. -/

namespace Sys2Proof.Tests
open Sys2Proof.Machine
set_option Elab.async false

/-! ### Helpers -/

/-- The next state of an outcome. -/
def nextOf (o : Host.Outcome State Fault Refusal) : State :=
  match o with
  | .next t => t
  | _ => State.reset

/-- The outcome is a next state. -/
def isNext (o : Host.Outcome State Fault Refusal) : Bool :=
  match o with
  | .next _ => true
  | _ => false

/-- The outcome is a refusal with this reason. -/
def isRefused (o : Host.Outcome State Fault Refusal) (r : Refusal) : Bool :=
  match o with
  | .refused x => x == r
  | _ => false

theorem eq_next {o : Host.Outcome State Fault Refusal} (h : isNext o = true) : o = .next (nextOf o) := by
  cases o with
  | next t => rfl
  | fault f => exact Bool.noConfusion h
  | refused r => exact Bool.noConfusion h

/-- `INIT` with the launch premise `StrobeLatchesInactive`. -/
def free : State := { State.reset with out := { State.reset.out with dataHi := 0xFF#8 } }

/-- `INIT` with the address latches at 0x0100 and 0x0080. -/
def held : State :=
  { free with
    own := .acquired
    dir := { free.dir with addrHi := 0x00#8, addrLo := 0x00#8, dataHi := 0x87#8 }
    out := { free.out with ctrlA := 0x02#8 }
    target := { free.target with ownsBus := false, mem := [(0x1234, 0x5A#8)] } }

/-- Armed, the target running its program. -/
def armed : State :=
  { free with
    clockMode := .singleStep
    arm := .armed
    ioc := { en := 0x01#8, dflt := 0x01#8, cmp := 0x01#8, flag := 0x00#8 } }

/-- Armed, the target caught at a fetch. -/
def caught : State :=
  { armed with ioc := { armed.ioc with flag := 0x01#8 }, target := { armed.target with m1 := true } }

/-- The same state with a script. -/
def script (s : State) (e : List Slot) : State := { s with env := e }

/-- The same state with a bound on polls. -/
def bounded (s : State) (l : Nat) : State := { s with cfg := { s.cfg with pollLimit := some l } }

theorem good_free : Good free := by constructor <;> decide +kernel
theorem good_held : Good held := by constructor <;> decide +kernel
theorem good_armed : Good armed := by constructor <;> decide +kernel
theorem good_caught : Good caught := by constructor <;> decide +kernel

/-- A script changes none of the invariants. -/
theorem good_script {s : State} (h : Good s) (e : List Slot) : Good (script s e) :=
  ⟨h.params, h.noFault, h.alive, h.memory, h.roles, h.position, h.driven, h.floating, h.outside, h.taking,
    h.withdrawing, h.releasing, h.window, h.target, h.clock, h.arming⟩

/-! ### WellFormed refuses an ill-formed term at each check -/

theorem test_illFormed_bank : ¬ Instr.WellFormed (.takeBusBank 256) := by decide +kernel
theorem test_illFormed_select : ¬ Instr.WellFormed (.bankSelect 256) := by decide +kernel
theorem test_illFormed_readAddr : ¬ Instr.WellFormed (.memRead 65536) := by decide +kernel
theorem test_illFormed_ioReadAddr : ¬ Instr.WellFormed (.ioRead 65536) := by decide +kernel
theorem test_illFormed_latchAddr : ¬ Instr.WellFormed (.latchAddress 65536) := by decide +kernel
theorem test_illFormed_writeAddr : ¬ Instr.WellFormed (.memWrite 65536 0) := by decide +kernel
theorem test_illFormed_writeData : ¬ Instr.WellFormed (.memWrite 0 256) := by decide +kernel
theorem test_illFormed_ioWriteAddr : ¬ Instr.WellFormed (.ioWrite 65536 0) := by decide +kernel
theorem test_illFormed_ioWriteData : ¬ Instr.WellFormed (.ioWrite 0x10 256) := by decide +kernel
theorem test_illFormed_slowRate : ¬ Instr.WellFormed (.slowClock 0) := by decide +kernel
theorem test_illFormed_autoRate : ¬ Instr.WellFormed (.autostep (-1)) := by decide +kernel
theorem test_packable_half : ¬ Instr.Packable (.slowClock (1 / 2)) := by decide +kernel
theorem test_packable_large : ¬ Instr.Packable (.autostep 65536) := by decide +kernel
theorem test_illFormed_pins_shared :
    ¬ PinMap.WellFormed { State.reset.cfg.pins with int := State.reset.cfg.pins.clk } := by decide
theorem test_illFormed_pins_on_data :
    ¬ PinMap.WellFormed { State.reset.cfg.pins with clkout := ⟨.dataLo, 0⟩ } := by decide
theorem test_illFormed_pins_m1 : ¬ PinMap.WellFormed { State.reset.cfg.pins with m1 := ⟨.ctrlB, 0⟩ } := by decide
theorem test_illFormed_base : ¬ Params.WellFormed { State.reset.cfg with i2cBase := 126 } := by decide +kernel
theorem test_illFormed_limit : ¬ Params.WellFormed { State.reset.cfg with pollLimit := some 0 } := by decide +kernel
theorem test_illFormed_pulse : ¬ Params.WellFormed { State.reset.cfg with tResetMin := 0 } := by decide +kernel

/-! ### Decoding: the table of 95_test_vectors.md section 2.6, word by word -/

theorem test_decode_reset : decode 0x00000000#32 = .command .reset := by decide +kernel
theorem test_decode_takeBus : decode 0x10000000#32 = .command .takeBus := by decide +kernel
theorem test_decode_takeBusBank : decode 0x18000003#32 = .command (.takeBusBank 3) := by decide +kernel
theorem test_decode_release : decode 0x20000000#32 = .command (.releaseBus false) := by decide +kernel
theorem test_decode_releaseReset : decode 0x28000000#32 = .command (.releaseBus true) := by decide +kernel
theorem test_decode_memRead : decode 0x30800000#32 = .command (.memRead 0x8000) := by decide +kernel
theorem test_decode_memWrite : decode 0x4080005A#32 = .command (.memWrite 0x8000 0x5A) := by decide +kernel
theorem test_decode_ioRead : decode 0x50008000#32 = .command (.ioRead 0x0080) := by decide +kernel
theorem test_decode_ioWrite : decode 0x600001FF#32 = .command (.ioWrite 0x0001 0xFF) := by decide +kernel
theorem test_decode_normalClock : decode 0x70000000#32 = .command .normalClock := by decide +kernel
theorem test_decode_slowClock : decode 0x80000400#32 = .command (.slowClock 4) := by decide +kernel
theorem test_decode_singlestepOn : decode 0x90000000#32 = .command .singlestepOn := by decide +kernel
theorem test_decode_singlestepOff : decode 0xA0000000#32 = .command .singlestepOff := by decide +kernel
theorem test_decode_autostep : decode 0xB0000A00#32 = .command (.autostep 10) := by decide +kernel
theorem test_decode_stepWait : decode 0xC0000000#32 = .command .stepWait := by decide +kernel
theorem test_decode_m1ReleaseWait : decode 0xD0000000#32 = .command .m1ReleaseWait := by decide +kernel
theorem test_decode_latchAddress : decode 0xE0BEEF00#32 = .command (.latchAddress 0xBEEF) := by decide +kernel
theorem test_decode_bankSelect : decode 0xF000001F#32 = .command (.bankSelect 0x1F) := by decide +kernel
theorem test_reject_bankWithoutFlag : decode 0x10000005#32 = .rejected .unusedByte := by decide +kernel
theorem test_reject_releaseByte : decode 0x20000001#32 = .rejected .unusedByte := by decide +kernel
theorem test_reject_readByte : decode 0x30800001#32 = .rejected .unusedByte := by decide +kernel
theorem test_reject_reserved : decode 0x31800000#32 = .rejected .reservedBits := by decide +kernel
theorem test_reject_normalByte : decode 0x70000001#32 = .rejected .unusedByte := by decide +kernel
theorem test_reject_rateZero : decode 0x80000000#32 = .rejected .zeroRate := by decide +kernel
theorem test_reject_autoRateZero : decode 0xB0000000#32 = .rejected .zeroRate := by decide +kernel
theorem test_reject_selectHalfword : decode 0xF0000100#32 = .rejected .unusedHalfword := by decide +kernel
theorem test_reject_readFlag : decode 0x38000000#32 = .rejected .unusedFlag := by decide +kernel
theorem test_reject_orderOfChecks : decode 0x31FFFF00#32 = .rejected .reservedBits := by decide +kernel

/-! ### Encoding: words that the spec writes out -/

theorem test_encode_memWrite : encode (.memWrite 0x8000 0x5A) = 0x4080005A#32 := by decide
theorem test_encode_release : encode (.releaseBus true) = 0x28000000#32 := by decide
theorem test_encode_slowClock : encode (.slowClock 4) = 0x80000400#32 := by decide +kernel
theorem test_encode_bank : encode (.takeBusBank 2) = 0x18000002#32 := by decide

/-! ### The AddressEncoder: the vectors of section 2.1 -/

theorem test_rev8_12 : rev8 0x12#8 = 0x48#8 := by decide
theorem test_rev8_01 : rev8 0x01#8 = 0x80#8 := by decide
theorem test_rev8_78 : rev8 0x78#8 = 0x1E#8 := by decide
theorem test_rate_2 : halfPeriod 2 = 1 / 4 ∧ stepPeriod 2 = 1 / 2 := by decide +kernel
theorem test_pace_over : paceTime (1 / 1000) (3 / 1000) 0 = 0 := by decide +kernel

/-! ### One small run of each operation (the vectors of sections 2.1 to 2.5 and the examples of the rules) -/

/-- V-AE7. -/
theorem test_latchAddress : (nextOf (exec (.latchAddress 0x1234) free)).trace =
    [.latch .addrHi 0x48#8, .latch .addrLo 0x2C#8] := by decide +kernel
/-- V-AE14. -/
theorem test_latchAddress_loFirst :
    (nextOf (exec (.latchAddress 0x1234) { free with cfg := { free.cfg with addrPortOrder := .loFirst } })).trace =
      [.latch .addrLo 0x2C#8, .latch .addrHi 0x48#8] := by decide +kernel
/-- V-BC1. -/
theorem test_reset : (nextOf (exec .reset free)).trace =
    [.assert .reset, .sleep (1 / 1000) false, .deassert .reset] := by decide +kernel
/-- R91's example: the target answers on the third sample. -/
theorem test_takeBus :
    (nextOf (exec .takeBus (script free [idleSlot, idleSlot, idleSlot, slotOf .grant]))).trace =
      [.assert .busreq, .sampleSig .busack true, .sampleSig .busack true, .sampleSig .busack false, .drive .addr,
        .drive .strobes, .deassert .mreq, .deassert .wr, .deassert .rd, .deassert .iorq] := by decide +kernel
/-- V-SS15: a caught target; the first sample releases it, its fetch completes, it grants. -/
theorem test_takeBus_caught :
    (nextOf (exec .takeBus (script caught [idleSlot, idleSlot, ⟨[.m1Deassert, .grant], .ok⟩]))).own = .acquired := by
  decide +kernel
/-- R100: killed before the request is withdrawn, a `TAKE_BUS` that timed out has set no fault. -/
theorem test_takeBus_withdrawal :
    let t := nextOf (exec .takeBus (script (bounded free 1) [idleSlot, idleSlot, ⟨[], .kill⟩]))
    t.fault = none ∧ line t .busreq = .asserted := by decide +kernel
/-- R94: with a bank the board's register holds it. -/
theorem test_takeBusBank :
    (nextOf (exec (.takeBusBank 2) (script free [idleSlot, slotOf .grant]))).target.bank = 0x02#8 := by decide +kernel
/-- R95's example: the target answers at the second sample. -/
theorem test_releaseBus :
    (nextOf (exec (.releaseBus false)
        (script held [idleSlot, idleSlot, idleSlot, idleSlot, idleSlot, slotOf .resume]))).trace =
      [.float .data, .float .addr, .float .strobes, .deassert .busreq, .sampleSig .busack false,
        .sampleSig .busack true] := by decide +kernel
/-- R112's example. -/
theorem test_memRead : (nextOf (exec (.memRead 0x1234) held)).trace =
    [.latch .addrHi 0x48#8, .latch .addrLo 0x2C#8, .assert .rd, .assert .mreq, .sample .dataLo 0x5A#8, .deassert .mreq,
      .deassert .rd] := by decide +kernel
theorem test_memRead_result : (nextOf (exec (.memRead 0x1234) held)).result = some 0x5A#8 := by decide +kernel
/-- R113's example. -/
theorem test_memWrite : (nextOf (exec (.memWrite 0x8000 0x5A) held)).trace =
    [.latch .addrHi 0x01#8, .latch .addrLo 0x00#8, .drive .data, .latch .dataLo 0x5A#8, .assert .wr, .assert .mreq,
      .deassert .mreq, .deassert .wr, .float .data] := by decide +kernel
theorem test_memWrite_memory :
    (nextOf (exec (.memWrite 0x8000 0x5A) held)).target.mem = [(0x1234, 0x5A#8), (0x8000, 0x5A#8)] := by
  decide +kernel
/-- R47: with MREQ and WR left asserted, a write that comes later is stored too. -/
theorem test_memWrite_stuck :
    let s := { held with out := { held.out with dataHi := 0xE7#8 } }
    (nextOf (exec (.memWrite 0x8000 0x5A) s)).target.mem.read 0x8000 = some 0x5A#8 := by decide +kernel
/-- R50: with IORQ and WR left asserted, a bank select still sets the bank. -/
theorem test_bankSelect_stuck :
    (nextOf (exec (.bankSelect 3) { held with out := { held.out with dataHi := 0xAF#8 } })).target.bank = 0x03#8 := by
  decide +kernel
/-- R20: an IO device in its read window is a driver of the data port. -/
theorem test_contention_io :
    contention { held with out := { held.out with dataHi := 0x9F#8 }, dir := { held.dir with dataLo := 0x00#8 } }
      ⟨.dataLo, 0⟩ = true := by decide +kernel
/-- R114's example: the read is seen at 0x0080 in the IO space. -/
theorem test_ioRead : (nextOf (exec (.ioRead 0x0080) held)).target.io = [.read 0x0080#16] := by decide +kernel
/-- R115's example. -/
theorem test_ioWrite : (nextOf (exec (.ioWrite 0x0001 0xFF) held)).trace =
    [.latch .addrHi 0x00#8, .latch .addrLo 0x80#8, .drive .data, .latch .dataLo 0xFF#8, .assert .wr, .assert .iorq,
      .deassert .iorq, .deassert .wr, .float .data] := by decide +kernel
theorem test_bankSelect : (nextOf (exec (.bankSelect 3) held)).target.bank = 0x03#8 := by decide +kernel
/-- R131's example. -/
theorem test_normalClock : (nextOf (exec .normalClock free)).trace = [.assert .clken] := by decide +kernel
/-- R132's example: cancelled during the second sleep. -/
theorem test_slowClock :
    (nextOf (exec (.slowClock 2)
        (script free (List.replicate 6 idleSlot ++ [slotOf .cancel])))).trace =
      [.deassert .clken, .clk false, .sleep (1 / 4) false, .clk true, .sleep (1 / 4) true, .assert .clken] := by
  decide +kernel
/-- V-SS1. -/
theorem test_singlestepOn : (nextOf (exec .singlestepOn free)).trace =
    [.ioc .m1 .cmp true, .ioc .m1 .dflt true, .ioc .m1 .en true] := by decide +kernel
/-- R141 (a): the target fetches after the enable write and before step 4. -/
theorem test_singlestepOn_caught :
    let t := nextOf (exec .singlestepOn (script free [idleSlot, idleSlot, idleSlot, slotOf .m1Assert]))
    t.arm = .armed ∧ halted t = true := by decide +kernel
/-- Entry 35: the fetch that set the latch finishes before step 4. -/
theorem test_singlestepOn_finished :
    let t := nextOf (exec .singlestepOn (script free [idleSlot, idleSlot, idleSlot, ⟨[.m1Assert, .m1Deassert], .ok⟩]))
    halted t = true ∧ t.target.m1 = false := by decide +kernel
/-- V-SS2. -/
theorem test_singlestepOff : (nextOf (exec .singlestepOff caught)).ioc =
    { en := 0x00#8, dflt := 0x01#8, cmp := 0x01#8, flag := 0x00#8 } := by decide +kernel
/-- V-SS4. -/
theorem test_m1ReleaseWait :
    (nextOf (exec .m1ReleaseWait (script caught [idleSlot, idleSlot, slotOf .m1Deassert]))).trace =
      [.sampleSig .m1 true, .sampleSig .m1 true, .sampleSig .m1 false] := by decide +kernel
/-- V-SS5. -/
theorem test_m1ReleaseWait_running : (nextOf (exec .m1ReleaseWait armed)).trace = [.sampleSig .m1 false] := by
  decide +kernel
/-- V-SS6. -/
theorem test_stepWait :
    (nextOf (exec .stepWait (script armed [idleSlot, slotOf .m1Assert, idleSlot, slotOf .m1Deassert]))).trace =
      [.flag .m1 false, .flag .m1 true, .sampleSig .m1 true, .sampleSig .m1 false] := by decide +kernel
/-- V-SS11. -/
theorem test_stepWait_timeout :
    (nextOf (exec .stepWait (script (bounded armed 4) (List.replicate 4 idleSlot)))).fault =
      some (.timeout .flagWait) := by decide +kernel
/-- R140's caught row: the target is caught already when the step wait is issued. -/
theorem test_stepWait_caught :
    (nextOf (exec .stepWait (script caught [idleSlot, idleSlot, slotOf .m1Deassert]))).trace =
      [.flag .m1 true, .sampleSig .m1 true, .sampleSig .m1 false] := by decide +kernel
/-- V-SS9: cancelled inside the flag poll. -/
theorem test_autostep :
    (nextOf (exec (.autostep 10) (script armed [idleSlot, idleSlot, slotOf .cancel]))).trace =
      [.flag .m1 false, .flag .m1 false, .ioc .m1 .en false] := by decide +kernel
/-- V-SS10. -/
theorem test_autostep_disarmed : (nextOf (exec (.autostep 5) free)).trace = [.ioc .m1 .en false] := by decide +kernel

/-! ### Refusals (95_test_vectors.md sections 2.5 to 2.7, program P5) -/

/-- V-EX1. -/
theorem test_refuse_addr :
    isRefused (exec (.memWrite 65536 0) held) (.invalidArgument .addr 65536) = true := by decide +kernel
/-- V-EX2. -/
theorem test_refuse_data :
    isRefused (exec (.ioWrite 0x10 256) held) (.invalidArgument .data 256) = true := by decide +kernel
/-- P5: a read while Released. -/
theorem test_refuse_state :
    isRefused (exec (.memRead 0x1234) free) (.wrongState .memRead .released .hardwareFree .disarmed) = true := by
  decide +kernel
/-- V-EX5: a cancellation raised in the handler of the `singlestep` command is ignored. -/
theorem test_cancel_in_handler :
    (nextOf (step (script { armed with requests := [.rest .interactive], users := [.quit] }
      [slotOf .cancel]))).cancel = false := by decide +kernel
/-- R191: after `AUTOSTEP` the command's own scope runs `SINGLESTEP_OFF` once more. -/
theorem test_autostep_scope :
    (nextOf (step { free with requests := [.rest .autostepEnd] })).trace = [.ioc .m1 .en false] := by decide +kernel
/-- R170, R231: an `autostep` command with a rate of 0 arms, is refused, and disarms before the run ends as the refusal. -/
theorem test_autostep_bad_rate :
    let s := nextOf (step (nextOf (step { free with requests := [.command (.autostep 0)] })))
    s.arm = .disarmed ∧ s.ioc.en = 0x00#8 ∧ isRefused (step s) (.invalidArgument .rate 0) = true := by decide +kernel
/-- R180: the codes of the table. -/
theorem test_codes :
    hangCode .flagWait = 1 ∧ faultCode (.timeout .ackWait) = 2 ∧
      faultCode (.transportAbort (.iocFlag .m1) ⟨.stepWait, 1, 0⟩) = 3 ∧
      refusalCode (.invalidArgument .addr 65536) = some 4 ∧
      refusalCode (.wrongState .memRead .released .hardwareFree .disarmed) = some 5 ∧
      refusalCode (.reservedWord 0x01000000#32 .reservedBits) = some 6 := by decide
/-- V-EX6: the word is decoded before the state is looked at. -/
theorem test_refuse_word :
    isRefused (step (free.withFetchWord 32 0x31FFFF00)) (.reservedWord 0x31FFFF00#32 .reservedBits) = true := by
  decide +kernel
/-- The first word after reset runs. -/
theorem test_first_word :
    (nextOf (step (State.reset.withFetchWord 32 0x90000000))).arm = .armed := by decide +kernel

/-! ### Witnesses: the hypotheses of each statement are met -/

theorem witness_DecodeOfEncode : (Instr.memWrite 65535 255).WellFormed ∧ (Instr.memWrite 65535 255).Packable ∧
    (Instr.slowClock 65535).WellFormed ∧ (Instr.slowClock 65535).Packable ∧ (Instr.autostep 1).WellFormed ∧
    (Instr.autostep 1).Packable ∧ (Instr.takeBusBank 255).WellFormed := by decide +kernel

theorem witness_EncodeOfDecode : decode 0x40FFFFFF#32 = .command (.memWrite 65535 255) := by decide

theorem witness_MatchMaskTable : 0x18000003#32 &&& rowMask (.takeBusBank 3) = rowMatch (.takeBusBank 3) := by decide

theorem witness_ReservedWordsRefused :
    (free.withFetchWord 32 0x80000000).seq = .idle ∧
      (free.withFetchWord 32 0x80000000).requests = [.word 0x80000000#32] ∧
      (∀ i : Instr, 0x80000000#32 &&& rowMask i = rowMatch i →
        (∃ r, i = .slowClock r ∨ i = .autostep r) ∧ hwField 0x80000000#32 = 0#16) ∧
      ∀ i : Instr, 0x01000000#32 &&& rowMask i ≠ rowMatch i := by
  refine ⟨rfl, rfl, ?_, ?_⟩
  · intro i h
    cases i with
    | slowClock r => exact ⟨⟨r, Or.inl rfl⟩, by decide⟩
    | autostep r => exact ⟨⟨r, Or.inr rfl⟩, by decide⟩
    | _ => exact absurd h (by simp only [rowMask, rowMatch]; decide)
  · intro i
    cases i <;> simp only [rowMask, rowMatch] <;> decide

theorem witness_StepRunsDecoded :
    (free.withFetchWord 32 0x90000000).seq = .idle ∧
      (free.withFetchWord 32 0x90000000).requests = [.word 0x90000000#32] ∧
      decode 0x90000000#32 = .command .singlestepOn ∧
      ({ free with requests := [.record .reset] } : State).requests = [.record .reset] ∧
      ({ held with seq := .running (.memRead 0) 3 } : State).seq = .running (.memRead 0) 3 := by
  refine ⟨rfl, rfl, by decide, rfl, rfl⟩

theorem witness_OutOfDomainRefused : ¬ (Instr.memRead 65536).WellFormed ∧ (Instr.memRead 65535).WellFormed := by
  decide

theorem witness_PreconditionTable : (Instr.memRead 0).WellFormed ∧ free.seq = .idle ∧
    free.cfg.clockRequiresAcquired = false ∧ isNext (exec (.memRead 0) free) = false ∧
    isNext (exec (.memRead 0) held) = true := by decide +kernel

theorem witness_RateArithmetic : (0 : Quantity) < 4 := by decide +kernel

theorem witness_LatchAddressCompletes : Good free ∧ free.cfg.WellFormed ∧ free.seq = .idle ∧ Sound free ∧
    Quiet free ∧ 0xFFFF < 65536 := ⟨good_free, by decide +kernel⟩

theorem witness_AddressOnTheBus :
    let t := nextOf (exec (.latchAddress 0xFFFF) held)
    isNext (exec (.latchAddress 0xFFFF) held) = true ∧ Returned t ∧ NotKilled held t ∧ addrDriven t ∧
      t.target.ownsBus = false :=
  ⟨by decide +kernel, by decide +kernel, Or.inl (by decide +kernel), by decide +kernel, by decide +kernel⟩

/-- The hypotheses of the five cycles, at both ends of the address and data ranges, with a script that acts. -/
theorem witness_Held :
    let s := script held [slotOf (.int true), slotOf .resume, slotOf (.memWrite 0 1)]
    Held s ∧ 0 < 65536 ∧ 65535 < 65536 ∧ 255 < 256 ∧ cellAt s 0xFFFF#16 = some (65535, true) :=
  ⟨⟨good_script good_held _, rfl, rfl, by decide +kernel⟩, by decide, by decide, by decide, by decide +kernel⟩

theorem witness_WriteThenRead :
    held.own = .acquired ∧ held.seq = .idle ∧ cellAt held (addrOf 65535) = some (65535, true) ∧
      cellAt held (addrOf 1) ≠ some (65535, true) ∧ addrOf 5 ≠ held.cfg.bankSelectPort ∧
      (runAll [.memWrite 65535 255, .memRead 1, .memWrite 1 3, .ioWrite 5 9, .memRead 65535] held).isSome = true := by
  decide +kernel

theorem witness_ResetCompletes : free.cfg.WellFormed ∧ free.seq = .idle ∧ Sound free ∧ Quiet free := by
  decide +kernel

/-- A grant at the first sample, after one failed sample with the bound just above, and of a caught target. -/
theorem witness_TakeBusCompletes :
    let s := script free (List.replicate (0 + 1) idleSlot ++ ⟨[.grant], .ok⟩ :: [])
    let r := script (bounded free 2) (List.replicate (1 + 1) idleSlot ++ ⟨[.m1Deassert, .grant], .ok⟩ :: [])
    let c := script caught (List.replicate (1 + 1) idleSlot ++ ⟨[.m1Deassert, .grant], .ok⟩ :: [])
    (Good s ∧ Good r ∧ Good c) ∧ (s.own = .released ∧ s.seq = .idle ∧ s.target.ownsBus = true ∧ s.target.m1 = false ∧
      halted s = false ∧ strobeLatchesInactive s ∧ Sound s ∧ ∀ l ∈ s.cfg.pollLimit, 0 < l) ∧
      (halted r = false ∧ strobeLatchesInactive r ∧ Sound r ∧ ∀ l ∈ r.cfg.pollLimit, 1 < l) ∧
      (c.own = .released ∧ halted c = true ∧ strobeLatchesInactive c ∧ Sound c ∧ ∀ l ∈ c.cfg.pollLimit, 1 < l) ∧
      ∀ b ∈ some 255, b < 256 := by
  refine ⟨⟨good_script good_free _, ?_, good_script good_caught _⟩, by decide +kernel, by decide +kernel,
    by decide +kernel, by decide⟩
  constructor <;> decide +kernel

theorem witness_TakeBusAgain : Held held ∧ ∀ b ∈ some 255, b < 256 :=
  ⟨⟨good_held, rfl, rfl, by decide +kernel⟩, by decide⟩

/-- A running target, a held bus, an armed controller, and one whose target is caught. -/
theorem witness_UnansweredWaitsHold :
    (Good free ∧ free.own = .released ∧ free.seq = .idle ∧ free.target.ownsBus = true ∧ free.env = [] ∧
      free.cfg.pollLimit = none) ∧
      (Held held ∧ held.env = [] ∧ held.cfg.pollLimit = none) ∧
      (Good armed ∧ armed.seq = .idle ∧ armed.arm = .armed ∧ armed.env = [] ∧ armed.cfg.pollLimit = none ∧
        flagLatched armed .m1 = false ∧ armed.cancel = false) ∧
      Good caught ∧ caught.seq = .idle ∧ caught.arm = .armed ∧ caught.env = [] ∧ caught.target.m1 = true ∧
      flagLatched caught .m1 = true ∧ caught.cancel = false :=
  ⟨⟨good_free, by decide +kernel⟩, ⟨⟨good_held, rfl, rfl, by decide +kernel⟩, rfl, rfl⟩, ⟨good_armed, by decide +kernel⟩,
    good_caught, by decide +kernel⟩

/-- The shortest scripts and the least bound, without and with a reset pulse. -/
theorem witness_TimeoutCleanup :
    let s := script (bounded free 1) [idleSlot, idleSlot]
    let h := script (bounded held 1) (List.replicate 5 idleSlot)
    let r := script (bounded held 1) (List.replicate 9 idleSlot)
    (Good s ∧ s.own = .released ∧ s.seq = .idle ∧ s.target.ownsBus = true ∧ Quiet s ∧ s.cfg.pollLimit = some 1 ∧
      1 < s.env.length ∧ ∀ b ∈ some 255, b < 256) ∧
      (Held h ∧ Quiet h ∧ h.cfg.pollLimit = some 1 ∧ 1 + (if false then 7 else 3) < h.env.length) ∧
      Held r ∧ Quiet r ∧ 1 + (if true then 7 else 3) < r.env.length := by
  refine ⟨⟨?_, by decide +kernel⟩, ⟨⟨?_, rfl, rfl, by decide +kernel⟩, by decide +kernel⟩,
    ⟨?_, rfl, rfl, by decide +kernel⟩, by decide +kernel⟩
  · constructor <;> decide +kernel
  · constructor <;> decide +kernel
  · constructor <;> decide +kernel

/-- Without and with a reset pulse, and with a target that is caught. -/
theorem witness_ReleaseBusCompletes :
    let s := script held (List.replicate ((if false then 8 else 4) + 0) idleSlot ++ slotOf .resume :: [])
    let r := script (bounded held 2) (List.replicate ((if true then 8 else 4) + 1) idleSlot ++ slotOf .resume :: [])
    let c := script { held with clockMode := .singleStep, arm := .armed, ioc := caught.ioc }
      (List.replicate ((if false then 8 else 4) + 1) idleSlot ++ slotOf .resume :: [])
    (Held s ∧ halted s = false ∧ ∀ l ∈ s.cfg.pollLimit, 0 < l) ∧
      (Held r ∧ halted r = false ∧ ∀ l ∈ r.cfg.pollLimit, 1 < l) ∧
      Held c ∧ halted c = true ∧ ∀ l ∈ c.cfg.pollLimit, 1 < l := by
  refine ⟨⟨⟨good_script good_held _, rfl, rfl, by decide +kernel⟩, by decide +kernel⟩, ⟨⟨?_, rfl, rfl, by decide +kernel⟩,
    by decide +kernel⟩, ⟨?_, rfl, rfl, by decide +kernel⟩, by decide +kernel⟩
  · constructor <;> decide +kernel
  · constructor <;> decide +kernel

/-- A running target, and one that is caught. -/
theorem witness_ReleaseBusAgain : (Good free ∧ free.own = .released ∧ free.seq = .idle ∧
    free.target.ownsBus = true ∧ Quiet free) ∧ Good caught ∧ caught.own = .released ∧ caught.seq = .idle ∧
    caught.target.ownsBus = true ∧ Quiet caught ∧ halted caught = true :=
  ⟨⟨good_free, rfl, rfl, rfl, by decide +kernel⟩, good_caught, by decide +kernel⟩

theorem witness_HandshakeSymmetry :
    let s := script free ([idleSlot, slotOf .grant] ++ List.replicate 26 idleSlot ++ [slotOf .resume])
    s.cfg.WellFormed ∧ s.killed = false ∧ s.own = .released ∧ addrFloats s ∧ strobesFloat s ∧ dataFloats s ∧
      isCycle (.memWrite 1 2) = true ∧ isCycle (.ioRead 3) = true ∧
      (runAll [takeFor none, .memWrite 1 2, .ioRead 3, .releaseBus false] s).isSome = true := by decide +kernel

/-- Strobe latches that are all asserted. -/
theorem witness_FirstAcquisitionGlitch :
    let s := script State.reset (List.replicate (0 + 1) idleSlot ++ slotOf .grant :: [])
    Good s ∧ s.own = .released ∧ s.seq = .idle ∧ s.target.ownsBus = true ∧ s.target.m1 = false ∧ halted s = false ∧
      Sound s ∧ (∀ l ∈ s.cfg.pollLimit, 0 < l) ∧ (∀ b ∈ some 3, b < 256) ∧ ¬ latchAt s .mreq false ∧
      latchAt free .mreq false := by
  refine ⟨?_, by decide +kernel⟩
  constructor <;> decide +kernel

theorem witness_NormalClockCompletes : Good free ∧ free.cfg.WellFormed ∧ free.seq = .idle ∧ Sound free ∧
    Quiet free ∧ free.arm = .disarmed ∧ (free.cfg.clockRequiresAcquired = false ∨ free.own = .acquired) :=
  ⟨good_free, by decide +kernel⟩

theorem witness_SlowClockRuns :
    let s := script free (List.replicate (6 * 0 + 7) idleSlot)
    Good s ∧ s.cfg.WellFormed ∧ s.seq = .idle ∧ s.cancel = false ∧ (0 : Quantity) < 4 ∧ s.arm = .disarmed ∧
      s.clockMode = .hardwareFree ∧ s.cfg.clockRequiresAcquired = false :=
  ⟨good_script good_free _, by decide +kernel⟩

/-- Cancelled at the first boundary, and after one in which the environment acts. -/
theorem witness_SlowClockCancelled :
    let s := script free ([] ++ slotOf .cancel :: [])
    let r := script free ([slotOf .m1Assert] ++ slotOf .cancel :: [])
    (s.cfg.WellFormed ∧ s.seq = .idle ∧ s.cancel = false ∧ (0 : Quantity) < 4 ∧ s.arm = .disarmed ∧
      s.clockMode = .hardwareFree ∧ s.cfg.clockRequiresAcquired = false ∧ Sound s) ∧
      Sound r ∧ ∀ l ∈ [slotOf .m1Assert], EnvAct.cancel ∉ l.acts := by decide +kernel

/-- The loop of `SLOW_CLOCK` with a cancellation to be taken. -/
def slowing : State :=
  { free with
    seq := .running (.slowClock 4) 5
    clockMode := .hostSlow 4
    out := { free.out with ctrlA := 0x07#8 }
    cancel := true }

theorem witness_HostSlowKeepsClkenOff : slowing.cfg.WellFormed ∧ slowing.seq = .running (.slowClock 4) 5 ∧
    line slowing .clken = .deasserted ∧ (boundary slowing).1.cancel = true ∧ (boundary slowing).2 = .ok ∧
    (boundary (tick (programOf slowing.cfg (.slowClock 4)) slowing)).2 = .ok := by decide +kernel

theorem witness_SinglestepOnCompletes : Good free ∧ Good armed ∧ free.cfg.WellFormed ∧ free.seq = .idle ∧ Sound free ∧
    Quiet free ∧ free.clockMode = .hardwareFree ∧ armed.clockMode = .singleStep ∧ Quiet armed :=
  ⟨good_free, good_armed, by decide +kernel⟩

theorem witness_SinglestepOffCompletes : Good caught ∧ caught.cfg.WellFormed ∧ caught.seq = .idle ∧ Sound caught ∧
    Quiet caught := ⟨good_caught, by decide +kernel⟩

/-- Caught and released by the first of its samples, and running. -/
theorem witness_M1ReleaseWaitCompletes :
    let s := script caught (List.replicate 1 idleSlot ++ slotOf .m1Deassert :: [])
    (Good s ∧ s.seq = .idle ∧ s.arm = .armed ∧ Sound s ∧ (∀ l ∈ s.cfg.pollLimit, 1 < l) ∧ s.target.m1 = true ∧
      (halted s = true → 0 < 1)) ∧
      Good armed ∧ armed.seq = .idle ∧ armed.arm = .armed ∧ Sound armed ∧ armed.target.m1 = false ∧ Quiet armed :=
  ⟨⟨good_script good_caught _, by decide +kernel⟩, good_armed, by decide +kernel⟩

/-- A running target, one in the middle of a fetch that is not caught, a caught one, and the latch with M1 de-asserted. -/
theorem witness_StepWaitCompletes :
    let e := List.replicate 1 idleSlot ++ slotOf .m1Deassert :: []
    let s := script armed (List.replicate 1 idleSlot ++ ⟨[.m1Assert], .ok⟩ :: e)
    let f := script { armed with target := { armed.target with m1 := true } } (⟨[.m1Deassert, .m1Assert], .ok⟩ :: e)
    let c := script caught (idleSlot :: e)
    let d := { caught with target := { caught.target with m1 := false } }
    (Good s ∧ s.seq = .idle ∧ s.arm = .armed ∧ Sound s ∧ s.target.ownsBus = true ∧ s.target.m1 = false ∧
      flagLatched s .m1 = false ∧ ∀ l ∈ s.cfg.pollLimit, 1 < l ∧ 1 < l) ∧
      (Good f ∧ f.target.m1 = true ∧ flagLatched f .m1 = false ∧ f.target.ownsBus = true ∧ Sound f) ∧
      (Good c ∧ c.seq = .idle ∧ c.arm = .armed ∧ Sound c ∧ flagLatched c .m1 = true ∧ c.target.m1 = true) ∧
      Good d ∧ d.seq = .idle ∧ d.arm = .armed ∧ flagLatched d .m1 = true ∧ d.target.m1 = false ∧ Quiet d := by
  refine ⟨⟨good_script good_armed _, by decide +kernel⟩, ⟨?_, by decide +kernel⟩,
    ⟨good_script good_caught _, by decide +kernel⟩, ?_, by decide +kernel⟩
  · constructor <;> decide +kernel
  · constructor <;> decide +kernel

theorem witness_AutostepDisarmed : Good free ∧ free.cfg.WellFormed ∧ free.seq = .idle ∧ free.arm = .disarmed ∧
    Sound free ∧ Quiet free ∧ (0 : Quantity) < 5 := ⟨good_free, by decide +kernel⟩

/-- A running target and a caught one. -/
theorem witness_AutostepStepsThenCancelled :
    let e := [idleSlot, slotOf .m1Deassert, idleSlot, slotOf .cancel]
    let s := script armed (slotOf .m1Assert :: e)
    let c := script caught (idleSlot :: e)
    (Good s ∧ s.seq = .idle ∧ s.arm = .armed ∧ Sound s ∧ s.cancel = false ∧ (0 : Quantity) < 10 ∧
      s.target.ownsBus = true ∧ s.target.m1 = false ∧ flagLatched s .m1 = false ∧ ∀ l ∈ s.cfg.pollLimit, 1 < l) ∧
      Good c ∧ c.seq = .idle ∧ c.arm = .armed ∧ Sound c ∧ c.cancel = false ∧ c.target.m1 = true ∧
      flagLatched c .m1 = true ∧ ∀ l ∈ c.cfg.pollLimit, 1 < l :=
  ⟨⟨good_script good_armed _, by decide +kernel⟩, good_script good_caught _, by decide +kernel⟩

/-- An abort in the flag poll, after which the handler runs. -/
theorem witness_AutostepAlwaysDisarms :
    let s := script armed [⟨[], .abort 0⟩]
    let t := nextOf (exec (.autostep 10) s)
    s.cfg.WellFormed ∧ isNext (exec (.autostep 10) s) = true ∧ t.seq = .idle ∧ NotKilled s t ∧
      t.raised ≠ some (.transportAbort (.iocConfig .m1 .en false) ⟨.singlestepOff, 1, 0⟩) ∧
      t.raised.isSome = true ∧
      NotKilled { s with killed := true } (nextOf (exec (.autostep 10) { s with killed := true })) := by
  refine ⟨by decide +kernel, by decide +kernel, by decide +kernel, Or.inl (by decide +kernel), by decide +kernel,
    by decide +kernel, Or.inr ⟨[⟨[], .abort 0⟩], by decide +kernel, by decide +kernel⟩⟩

theorem witness_AutostepPacing :
    let s := { armed with seq := .running (.autostep 10) 4 }
    s.seq = .running (.autostep 10) 4 ∧ Sound s ∧ s.cancel = false ∧ (0 : Quantity) < 10 ∧ s.env = [] ∧
      ∀ l ∈ s.env, EnvAct.cancel ∉ l.acts := by decide +kernel

theorem witness_M1Latch : (armed.target.ownsBus = true ∧ armed.target.m1 = false ∧ canRun armed = true) ∧
    halted caught = true ∧ asserts caught .reset = false := by decide +kernel

theorem witness_SampleClearsLatch : (caught.cfg.pins.pin .busack).port = caught.cfg.pins.m1.port ∧
    (caught.cfg.pins.pin .busreq).port ≠ caught.cfg.pins.m1.port ∧ flagLatched caught .m1 = true := by decide

theorem witness_StepTimeouts :
    let s := script (bounded armed 1) [idleSlot]
    let c := script (bounded caught 1) [idleSlot, idleSlot]
    (Good s ∧ s.seq = .idle ∧ s.arm = .armed ∧ flagLatched s .m1 = false ∧ Quiet s ∧ s.cfg.pollLimit = some 1 ∧
      1 ≤ s.env.length ∧ s.cancel = false ∧ (0 : Quantity) < 5) ∧
      Good c ∧ c.seq = .idle ∧ c.arm = .armed ∧ flagLatched c .m1 = true ∧ c.target.m1 = true ∧ Quiet c ∧
      c.cfg.pollLimit = some 1 ∧ 1 < c.env.length ∧ c.cancel = false := by
  refine ⟨⟨?_, by decide +kernel⟩, ?_, by decide +kernel⟩
  · constructor <;> decide +kernel
  · constructor <;> decide +kernel

/-- An abort in a cycle, one of its read, one in the loop of `SLOW_CLOCK` and one in that of `AUTOSTEP`. -/
theorem witness_TransportAbortStops :
    let s := script { held with seq := .running (.memRead 1) 3 } [⟨[], .abort 0⟩]
    let r := script { slowing with seq := .running (.slowClock 4) 4, cancel := false } [⟨[], .abort 0⟩]
    let u := script { armed with seq := .running (.autostep 4) 2 } [⟨[], .abort 0⟩]
    ((programOf u.cfg (.autostep 4))[2]? = some (ln .stepWait 0 1 .pollFlag) ∧
      accessOf .pollFlag = some (.iocFlag .m1) ∧ (boundary u).2 = .abort 0 ∧
      (cancellable u.seq && (boundary u).1.cancel) = false) ∧
      (programOf s.cfg (.memRead 1))[4]? = some (ln .memRead 4 0 .readData) ∧
      accessOf .readData = some (.samplePort .dataLo) ∧
    ((programOf s.cfg (.memRead 1))[3]? = some (ln .memRead 3 0 (.prim (.assert .mreq))) ∧
      (boundary s).2 = .abort 0 ∧ (cancellable s.seq && (boundary s).1.cancel) = false) ∧
      (programOf r.cfg (.slowClock 4))[4]? = some (ln .slowClock 3 3 (.prim (.clkOut true))) ∧
      (boundary r).2 = .abort 0 ∧ (cancellable r.seq && (boundary r).1.cancel) = false := by decide +kernel

theorem witness_AbortedWriteLeavesBusDriven :
    let s := script held (List.replicate 5 idleSlot ++ ⟨[], .abort 1⟩ :: [])
    Good s ∧ s.own = .acquired ∧ s.seq = .idle ∧ 65535 < 65536 ∧ 255 < 256 ∧ s.cfg.transportMayFail = true :=
  ⟨good_script good_held _, rfl, rfl, by decide, by decide, rfl⟩

theorem witness_FaultsAreSticky :
    let s := { free with
      fault := some (.timeout .ackWait), requests := [.record .normalClock] }
    isNext (step s) = true ∧ s.fault.isSome = true := by decide +kernel

theorem witness_ReliableTransportNeverAborts :
    let s := script { free with cfg := { free.cfg with transportMayFail := false }, requests := [.record .normalClock] }
      [⟨[], .abort 0⟩]
    s.cfg.transportMayFail = false ∧ isNext (step s) = true := by decide +kernel

/-- Pending before; raised while a `TAKE_BUS` runs; and raised while one that waits goes on. -/
theorem witness_OthersDeferCancellation :
    (∀ r, Instr.takeBus ≠ .slowClock r ∧ Instr.takeBus ≠ .autostep r) ∧
      isNext (exec .takeBus { free with cancel := true }) = true ∧
      (let s := script free [slotOf .cancel]
       isNext (exec .takeBus s) = true ∧ s.env = [slotOf .cancel] ++ (nextOf (exec .takeBus s)).env ∧
         commandHandler s.requests = false) ∧
      (let s := script { free with seq := .running .takeBus 1, out := { free.out with ctrlA := 0x02#8 } } [slotOf .cancel]
       isNext (step s) = true ∧ s.env = [slotOf .cancel] ++ (nextOf (step s)).env) :=
  ⟨fun _ => ⟨Instr.noConfusion, Instr.noConfusion⟩, by decide +kernel, by decide +kernel, by decide +kernel⟩

/-- A kill before a primitive, before a sleep, inside one, in the flag poll of `AUTOSTEP`, and before the arming. -/
theorem witness_KillRunsNoHandler :
    let s := script { slowing with seq := .running (.slowClock 4) 4, cancel := false } [⟨[], .kill⟩]
    let r := script { slowing with cancel := false } [⟨[], .kill⟩]
    let u := script { slowing with cancel := false } [idleSlot, ⟨[], .kill⟩]
    let v := script { armed with seq := .running (.autostep 4) 2 } [⟨[], .kill⟩]
    ((programOf s.cfg (.slowClock 4))[4]? = some (ln .slowClock 3 3 (.prim (.clkOut true))) ∧
      (boundary s).2 = .kill ∧ (cancellable s.seq && (boundary s).1.cancel) = false) ∧
      ((programOf r.cfg (.slowClock 4))[5]? = some (lnLoop .slowClock 3 4 (.sleep (halfPeriod 4)) 2) ∧
        (boundary r).2 = .kill ∧ (cancellable r.seq && (boundary r).1.cancel) = false) ∧
      ((boundary u).2 ≠ .kill ∧ (boundary (boundary u).1).2 = .kill ∧
        (cancellable u.seq && (boundary (boundary u).1).1.cancel) = false) ∧
      ((programOf v.cfg (.autostep 4))[2]? = some (ln .stepWait 0 1 .pollFlag) ∧ (boundary v).2 = .kill ∧
        (cancellable v.seq && (boundary v).1.cancel) = false) ∧
      (programOf free.cfg .singlestepOn)[3]? = some (ln .singlestepOn 4 0 .armed) := by decide +kernel

/-- Ticks at which each of the three modes changes. -/
theorem witness_OnlyTheseLinesChangeModes :
    (tick (programOf held.cfg (.releaseBus false)) { held with seq := .running (.releaseBus false) 0 }).own ≠ held.own ∧
      (tick (programOf free.cfg .singlestepOn) { free with seq := .running .singlestepOn 3 }).arm ≠ free.arm ∧
      (tick (programOf free.cfg (.slowClock 4)) { free with seq := .running (.slowClock 4) 1 }).clockMode ≠
        free.clockMode := by decide +kernel

/-- A step that runs an operation, and one with nothing to do. -/
theorem witness_steps :
    isNext (step { held with requests := [.record (.memWrite 1 2)] }) = true ∧ isNext (step free) = true := by
  decide +kernel

theorem witness_PinRolesKept : free.cfg.WellFormed ∧ pinRoles free ∧ held.target.mem.wf = true ∧
    isNext (step { held with requests := [.record (.memWrite 1 2)] }) = true := by decide +kernel

theorem witness_OtherPinsNeverInterrupt :
    (1 : Fin 8) ≠ free.cfg.pins.m1.bit ∧ isNext (step { free with requests := [.record .singlestepOn] }) = true := by
  decide +kernel

/-- A cycle with both strobes asserted. -/
def reading : State :=
  { held with
    seq := .running (.memRead 0x1234) 4
    out := { held.out with addrHi := 0x48#8, addrLo := 0x2C#8, dataHi := 0xD7#8 } }

theorem witness_GoodKeptByTick :
    Good reading ∧ reading.seq = .running (.memRead 0x1234) 4 ∧
      (tick (programOf reading.cfg (.memRead 0x1234)) reading).fault = none ∧
      (tick (programOf reading.cfg (.memRead 0x1234)) reading).killed = false ∧ memReadWindow reading = true ∧
      strobesAsPlaced reading := by
  refine ⟨?_, by decide +kernel⟩
  constructor <;> decide +kernel

theorem witness_GoodKeptByStep :
    let t := nextOf (step (script { free with requests := [.record .takeBus] } [idleSlot, slotOf .grant]))
    Good (script { free with requests := [.record .takeBus] } [idleSlot, slotOf .grant]) ∧
      isNext (step (script { free with requests := [.record .takeBus] } [idleSlot, slotOf .grant])) = true ∧
      t.fault = none ∧ t.killed = false ∧ t.own = .acquired ∧ strobesAsPlaced free := by
  refine ⟨?_, by decide +kernel⟩
  constructor <;> decide +kernel

/-- A requester that waits. -/
def requesting : State := { free with seq := .running .takeBus 1, out := { free.out with ctrlA := 0x02#8 } }

/-- The groups float, RESET and BUSREQ are asserted. -/
def floated : State :=
  { free with
    seq := .running (.releaseBus true) 5
    out := { free.out with ctrlA := 0x00#8 }
    target := { free.target with ownsBus := false } }

/-- Step 3c of `TAKE_BUS` begins. -/
def settingUp : State := { held with own := .released, seq := .running .takeBus 4 }

/-- `RELEASE_BUS` polls BUSACK. -/
def returning : State :=
  { free with seq := .running (.releaseBus false) 5, target := { free.target with ownsBus := false } }

/-- Each of the six phases. -/
theorem witness_PhasesAndContention :
    (Good free ∧ phase free = .released) ∧ (Good held ∧ phase held = .acquired) ∧
      (Good requesting ∧ phase requesting = .requesting) ∧ (Good settingUp ∧ phase settingUp = .setup) ∧
      (Good floated ∧ phase floated = .floated) ∧ Good returning ∧ phase returning = .returning := by
  refine ⟨⟨good_free, by decide⟩, ⟨good_held, by decide⟩, ⟨?_, by decide⟩, ⟨?_, by decide⟩, ⟨?_, by decide⟩, ?_, by decide⟩
  · constructor <;> decide +kernel
  · constructor <;> decide +kernel
  · constructor <;> decide +kernel
  · constructor <;> decide +kernel

theorem witness_BlockCommandsAscend : ([0xC3#8, 0x00#8, 0x40#8] : List Byte)[2]? = some 0x40#8 ∧ 2 < 3 := by decide

/-- Each turn of each command. -/
theorem witness_CommandsExpand :
    let s := { free with requests := [.rest (.steps [.op .normalClock])] }
    let w := { held with requests := [.rest (.watch 3 none)] }
    let d := { held with requests := [.rest (.watched 3 none)], result := some 0x01#8 }
    let i := { armed with requests := [.rest .interactive] }
    let n := { free with requests := [.rest (.showInt (some true))] }
    (s.seq = .idle ∧ s.raised = none ∧ ({ s with raised := some (.timeout .ackWait) } : State).raised ≠ none) ∧
      (w.seq = .idle ∧ w.raised = none ∧ w.cancel = false ∧ isNext (step w) = true ∧
        ({ w with cancel := true } : State).cancel = true) ∧
      (d.seq = .idle ∧ d.raised = none ∧ (nextOf (step d)).console = [.byte 0x01#8]) ∧
      (i.seq = .idle ∧ i.raised = none ∧ i.cancel = false ∧ i.users = [] ∧ (boundary i).2 ≠ .kill ∧
        isNext (step { i with users := [.advance] }) = true ∧ isNext (step { i with users := [.quit] }) = true ∧
        isNext (step { i with cancel := true }) = true) ∧
      (n.seq = .idle ∧ n.cancel = false ∧ (boundary n).2 = .ok ∧ (nextOf (step n)).console = [.int false]) ∧
      (nextOf (step { free with requests := [.command (.peek 3 ⟨none, false, false⟩)] })).requests =
        [.rest (expand (.peek 3 ⟨none, false, false⟩))] ∧
      (nextOf (step { d with requests := [.rest (.steps [.print])] })).console = [.byte 0x01#8] ∧
      (nextOf (step { free with requests := [.rest (.steps [])] })).requests = [] ∧
      isNext (step { free with requests := [.command (.iowatch 3 (some 2))] }) = true ∧
      isNext (step { free with requests := [.command (.autostep 4)] }) = true ∧
      isNext (step { armed with requests := [.rest (.autostepArmed 4)] }) = true ∧
      (nextOf (step { armed with requests := [.rest (.autostepArmed 0)] })).arm = .disarmed ∧
      isRefused (step { free with requests := [.rest (.handler (some (.invalidArgument .rate 0)))] })
        (.invalidArgument .rate 0) = true ∧
      (nextOf (step { free with clockMode := .hostSlow 4, requests := [.command .singlestep] })).requests =
        [.rest (.handler (some (.wrongState .singlestepOn .released (.hostSlow 4) .disarmed)))] ∧
      isNext (step { free with requests := [.rest .interactive], users := [.advance] }) = true ∧
      isNext (step { free with requests := [.rest .autostepEnd] }) = true ∧
      isNext (step { free with requests := [.rest (.handler none)] }) = true ∧
      isNext (step { free with requests := [.command .singlestep] }) = true ∧
      isNext (step { free with requests := [.command .showint] }) = true := by decide +kernel

end Sys2Proof.Tests
end

section
/-! What one step does, said once: an operation goes on, or with the sequencer idle one request is served, which
comes down to bookkeeping and at most one operation, boundary or sample. -/

namespace Sys2Proof.Machine

/-- Only the caller's side and the records of an invocation differ: what is requested, pending, printed, raised or
drawn. -/
def Bookkeeping (s t : State) : Prop :=
  t = { s with
    raised := t.raised, cancel := t.cancel, users := t.users, requests := t.requests, console := t.console
    draws := t.draws }

theorem Bookkeeping.refl (s : State) : Bookkeeping s s := rfl

theorem Bookkeeping.trans {s t u : State} (h : Bookkeeping s t) (k : Bookkeeping t u) : Bookkeeping s u := by
  unfold Bookkeeping at h k ⊢
  rw [k, h]

theorem Bookkeeping.cfg {s t : State} (h : Bookkeeping s t) : t.cfg = s.cfg := by rw [h]

theorem Bookkeeping.trace {s t : State} (h : Bookkeeping s t) : t.trace = s.trace := by rw [h]

theorem bookkeeping_pushRest (r : CommandRest) (s : State) : Bookkeeping s (pushRest r s) := rfl

theorem bookkeeping_printResult (s : State) : Bookkeeping s (printResult s) := by
  unfold printResult
  split <;> rfl

/-- An operation that is not refused runs its program from line 0 (R26, R187). -/
theorem exec_next {i : Instr} {s t : State} (h : exec i s = .next t) :
    i.WellFormed ∧ s.seq = .idle ∧ t = runOp (programOf s.cfg i) (beginOp i s) := by
  obtain ⟨allowed, hissue⟩ := exec_issue i s
  rw [hissue] at h
  rcases issue_cases i allowed (programOf s.cfg i) s with
    ⟨_, _, _, e⟩ | ⟨_, _, e⟩ | ⟨hw, hidle, _, e⟩ | ⟨_, _, _, e⟩ <;> rw [e] at h <;> cases h
  exact ⟨hw, hidle, rfl⟩

/-- ALL THAT SERVING A REQUEST CAN COME DOWN TO, after some bookkeeping. -/
inductive RequestTurn (s : State) : State → Prop where
  /-- an operation is issued and not refused -/
  | issued {s' t : State} (i : Instr) (run : exec i s' = .next t) (before : Bookkeeping s s') : RequestTurn s t
  /-- nothing else happens -/
  | noted {t : State} (note : Bookkeeping s t) : RequestTurn s t
  /-- nothing is requested, and the environment acts -/
  | environment : RequestTurn s (idleTurn s)
  /-- `singlestep` waits for the user (R171) -/
  | waited {s' : State} (before : Bookkeeping s s') : RequestTurn s (waitForUser s')
  /-- `showint` samples INT (R173) -/
  | sampledInt {s' : State} (last : Option Bool) (before : Bookkeeping s s') : RequestTurn s (showIntTurn last s')

theorem leaveScope_turn {why : Option Refusal} {s s' t : State} (h : leaveScope why s' = .next t)
    (hb : Bookkeeping s s') : RequestTurn s t :=
  .issued .singlestepOff h (hb.trans (bookkeeping_pushRest _ _))

theorem issueInScope_turn {i : Instr} {r : CommandRest} {s s' t : State} (h : issueInScope i r s' = .next t)
    (hb : Bookkeeping s s') : RequestTurn s t := by
  rcases issueInScope_cases i r s' with ⟨_, _, e⟩ | ⟨_, e⟩ <;> rw [e] at h
  · exact leaveScope_turn h hb
  · exact .issued i h (hb.trans (bookkeeping_pushRest _ _))

theorem startCommand_turn {c : HostCommand} {s s' t : State} (h : startCommand c s' = .next t)
    (hb : Bookkeeping s s') : RequestTurn s t := by
  have hraised : Bookkeeping s { s' with raised := none } := hb.trans rfl
  unfold startCommand at h
  split at h
  · cases h
    exact .noted (hraised.trans (bookkeeping_pushRest _ _))
  · split at h
    · exact issueInScope_turn h hraised
    · exact .issued _ h (hraised.trans (bookkeeping_pushRest _ _))

theorem continueSteps_turn {l : List CommandStep} {s s' t : State} (h : continueCommand (.steps l) s' = .next t)
    (hb : Bookkeeping s s') : RequestTurn s t := by
  match l with
  | [] =>
    cases h
    exact .noted hb
  | .op i :: l =>
    simp only [continueCommand] at h
    split at h
    · cases h
      exact .noted hb
    · exact .issued i h (hb.trans (bookkeeping_pushRest _ _))
  | .print :: l =>
    simp only [continueCommand] at h
    split at h <;> cases h
    · exact .noted hb
    · exact .noted ((hb.trans (bookkeeping_printResult _)).trans (bookkeeping_pushRest _ _))

theorem continueInteractive_turn {s s' t : State} (h : continueCommand .interactive s' = .next t)
    (hb : Bookkeeping s s') : RequestTurn s t := by
  simp only [continueCommand] at h
  split at h
  · exact leaveScope_turn h (hb.trans rfl)
  · split at h
    · cases h
      exact .waited (hb.trans (bookkeeping_pushRest _ _))
    · exact issueInScope_turn h (hb.trans rfl)
    · exact leaveScope_turn h (hb.trans rfl)

theorem continueWatch_turn {a : Nat} {last : Option Byte} {s s' t : State}
    (h : continueCommand (.watch a last) s' = .next t) (hb : Bookkeeping s s') : RequestTurn s t := by
  simp only [continueCommand] at h
  split at h
  · cases h
    exact .noted hb
  · split at h
    · split at h
      · exact .issued _ h (hb.trans rfl)
      · cases h
        exact .noted (hb.trans rfl)
    · exact .issued _ h (hb.trans (bookkeeping_pushRest _ _))

theorem continueWatched_turn {a : Nat} {last : Option Byte} {s s' t : State}
    (h : continueCommand (.watched a last) s' = .next t) (hb : Bookkeeping s s') : RequestTurn s t := by
  simp only [continueCommand] at h
  split at h
  · cases h
    exact .noted hb
  · split at h <;> cases h
    · exact .noted (hb.trans (bookkeeping_pushRest _ _))
    · exact .noted ((hb.trans (bookkeeping_printResult _)).trans (bookkeeping_pushRest _ _))

theorem continueCommand_turn {r : CommandRest} {s s' t : State} (h : continueCommand r s' = .next t)
    (hb : Bookkeeping s s') : RequestTurn s t := by
  match r with
  | .steps l => exact continueSteps_turn h hb
  | .autostepArmed rate =>
    simp only [continueCommand] at h
    split at h
    · exact leaveScope_turn h hb
    · exact issueInScope_turn h hb
  | .autostepEnd => exact leaveScope_turn h hb
  | .handler none =>
    cases h
    exact .noted hb
  | .handler (some _) => cases h
  | .interactive => exact continueInteractive_turn h hb
  | .watch a last => exact continueWatch_turn h hb
  | .watched a last => exact continueWatched_turn h hb
  | .showInt last =>
    simp only [continueCommand] at h
    split at h <;> cases h
    · exact .noted (hb.trans rfl)
    · exact .sampledInt last hb

/-- ALL THAT A STEP CAN DO: the operation in progress goes on, or a request is served. -/
theorem step_cases {s t : State} (h : step s = .next t) :
    (∃ i k, s.seq = .running i k ∧ t = runOp (programOf s.cfg i) s) ∨ (s.seq = .idle ∧ RequestTurn s t) := by
  unfold step at h
  split at h
  · next i k hs =>
    cases h
    exact .inl ⟨i, k, hs, by simp only [resumeOp, hs]⟩
  · next hs =>
    refine .inr ⟨hs, ?_⟩
    split at h
    · cases h
      exact .environment
    · split at h
      · exact .issued _ h rfl
      · cases h
    · exact .issued _ h rfl
    · exact startCommand_turn h rfl
    · exact continueCommand_turn h rfl

end Sys2Proof.Machine
end

section
/-! The trace only grows and the parameters stay (00_scope.md section 5, R6, R7), from one primitive up to a step. -/

namespace Sys2Proof.Machine

/-- `t` is reached from `s` with the parameters kept and events only appended. -/
structure Extends (s t : State) : Prop where
  cfg : t.cfg = s.cfg
  trace : s.trace <+: t.trace

theorem Extends.of_trace_eq {s t : State} (hcfg : t.cfg = s.cfg) (htrace : t.trace = s.trace) : Extends s t :=
  ⟨hcfg, by rw [htrace]⟩

theorem Extends.refl (s : State) : Extends s s := .of_trace_eq rfl rfl

theorem Extends.trans {s t u : State} (h : Extends s t) (k : Extends t u) : Extends s u :=
  ⟨k.cfg.trans h.cfg, h.trace.trans k.trace⟩

theorem Bookkeeping.toExtends {s t : State} (h : Bookkeeping s t) : Extends s t := .of_trace_eq h.cfg h.trace

theorem EnvKept.toExtends {s t : State} (h : EnvKept s t) : Extends s t := .of_trace_eq h.cfg h.trace

theorem emit_extends (e : Event) (s : State) : Extends s (emit e s) := ⟨rfl, List.prefix_append _ _⟩

theorem perform_extends (p : Prim) (s : State) : Extends s (perform p s) :=
  ⟨(perform_kept p s).cfg, by simp⟩

theorem abortEffect_extends (p : Prim) (n : Nat) (s : State) : Extends s (abortEffect p n s) :=
  .of_trace_eq (abortEffect_kept p n s).cfg (abortEffect_trace p n s)

theorem advance_extends (k : Nat) (l : ProgLine) (s : State) : Extends s (advance k l s) := .of_trace_eq rfl rfl

theorem timeOut_extends (w : Wait) (c : Option Nat) (s : State) : Extends s (timeOut w c s) := by
  rcases timeOut_cases w c s with ⟨_, _, e⟩ | ⟨_, e⟩ <;> rw [e] <;> exact .of_trace_eq rfl rfl

theorem pollFailed_extends (w : Wait) (c : Option Nat) (s : State) : Extends s (pollFailed w c s) := by
  unfold pollFailed
  split
  · exact .of_trace_eq rfl rfl
  · split
    · exact timeOut_extends w c s
    · exact .of_trace_eq rfl rfl

/-- An access only appends where what follows it does. -/
theorem access_extends {k : State → State} (hk : ∀ t, Extends t (k t)) (p : Prim) (pos : Pos) (s : State) :
    Extends s (access p pos k s) := by
  refine (boundary_kept s).toExtends.trans ?_
  rcases access_cases p pos k s with ⟨_, e⟩ | ⟨_, ⟨_, e⟩ | ⟨n, _, e⟩ | ⟨_, e⟩⟩ <;> rw [e]
  · exact .of_trace_eq rfl rfl
  · exact hk _
  · exact (abortEffect_extends p n _).trans (.of_trace_eq rfl rfl)
  · exact .of_trace_eq rfl rfl

/-- A sleep only appends where what follows it does. -/
theorem sleepFor_extends {k : State → State} (hk : ∀ t, Extends t (k t)) (d : State → Quantity) (s : State) :
    Extends s (sleepFor d k s) := by
  have hbefore : Extends s (boundary s).1 := (boundary_kept s).toExtends
  have hinside : Extends s (boundary (boundary s).1).1 := hbefore.trans (boundary_kept _).toExtends
  rcases sleepFor_cases d k s with e | e | e | e | e <;> rw [e]
  · exact hbefore.trans (.of_trace_eq rfl rfl)
  · exact hbefore.trans (.of_trace_eq rfl rfl)
  · exact (hinside.trans (emit_extends _ _)).trans (.of_trace_eq rfl rfl)
  · exact hinside.trans (.of_trace_eq rfl rfl)
  · refine (hinside.trans ?_).trans (hk _)
    exact ⟨rfl, List.prefix_append _ _⟩

/-- A boundary with no access after it only appends where what follows it does. -/
theorem settle_extends {k : State → State} (hk : ∀ t, Extends t (k t)) (s : State) : Extends s (settle k s) := by
  refine (boundary_kept s).toExtends.trans ?_
  rcases settle_cases k s with ⟨_, e⟩ | ⟨_, e⟩ <;> rw [e]
  · exact .of_trace_eq rfl rfl
  · exact hk _

/-- What follows the sample of a poll: the next line, or a failed sample. -/
theorem sampled_extends (c : Prop) [Decidable c] (p : Prim) (k : Nat) (l : ProgLine) (w : Wait) (o : Option Nat)
    (s : State) :
    Extends s (if c then advance k l (perform p s) else pollFailed w o (perform p s)) := by
  refine (perform_extends p s).trans ?_
  split
  · exact advance_extends k l _
  · exact pollFailed_extends w o _

theorem setArmed_extends (s : State) : Extends s (setArmed s) := .of_trace_eq rfl rfl

theorem doLine_extends (k : Nat) (l : ProgLine) (s : State) : Extends s (doLine k l s) := by
  obtain ⟨pos, micro, jump⟩ := l
  cases micro with simp only [doLine]
  | prim p => exact access_extends (fun t => (perform_extends p t).trans (advance_extends k _ _)) _ _ s
  | readData =>
    refine access_extends (fun t => (perform_extends (.samplePort .dataLo) t).trans ?_) _ _ s
    exact .of_trace_eq rfl rfl
  | poll | pollFlag => exact access_extends (fun t => sampled_extends _ _ k _ _ _ t) _ _ s
  | sleep | pace => exact sleepFor_extends (advance_extends k _) _ s
  | armed => exact settle_extends (fun t => (setArmed_extends t).trans (advance_extends k _ _)) s
  | whileArmed exit => split <;> exact .of_trace_eq rfl rfl
  | stampT0 | own | mode | fail | disarmed | ret => exact .of_trace_eq rfl rfl

theorem tick_extends (prog : List ProgLine) (s : State) : Extends s (tick prog s) := by
  unfold tick
  split
  · exact .refl s
  · split
    · exact doLine_extends _ _ s
    · exact .of_trace_eq rfl rfl

theorem runOp_extends (prog : List ProgLine) (s : State) : Extends s (runOp prog s) :=
  runProg_induct (P := Extends s) (fun u _ _ _ hu => hu.trans (tick_extends prog u)) _ (.refl s)

theorem exec_extends {i : Instr} {s t : State} (h : exec i s = .next t) : Extends s t := by
  obtain ⟨_, _, rfl⟩ := exec_next h
  have hbegin : Extends s (beginOp i s) := .of_trace_eq rfl rfl
  exact hbegin.trans (runOp_extends _ _)

theorem showIntTurn_extends (last : Option Bool) (s : State) : Extends s (showIntTurn last s) := by
  refine access_extends (fun t => (perform_extends (.sample .int) t).trans ?_) _ _ s
  dsimp only
  split <;> exact .of_trace_eq rfl rfl

theorem RequestTurn.toExtends {s t : State} (h : RequestTurn s t) : Extends s t := by
  cases h with
  | issued i run before => exact before.toExtends.trans (exec_extends run)
  | noted note => exact note.toExtends
  | environment => exact (boundary_kept s).toExtends
  | waited before => exact before.toExtends.trans (settle_extends Extends.refl _)
  | sampledInt last before => exact before.toExtends.trans (showIntTurn_extends last _)

theorem step_extends {s t : State} (h : step s = .next t) : Extends s t := by
  rcases step_cases h with ⟨_, _, _, rfl⟩ | ⟨_, hturn⟩
  · exact runOp_extends _ s
  · exact hturn.toExtends

/-- Settles O51: every part of a step, from a boundary and a primitive up, keeps the parameters and appends events. -/
theorem traceOnlyGrows : Obligations.TraceOnlyGrows := by
  intro s t h
  obtain ⟨hcfg, evs, htrace⟩ := step_extends h
  exact ⟨hcfg, evs, htrace.symm⟩

end Sys2Proof.Machine
end

section
/-! What a step takes from the caller's requests (R26, R62, R187), the M1 latch (R24, R25, R59, R227), and the invariant at
reset (R30). -/

namespace Sys2Proof.Machine

/-- Settles O55: each invariant is evaluated on the reset state. -/
theorem goodAtReset : Obligations.GoodAtReset := by
  unfold Obligations.GoodAtReset
  constructor <;> decide +kernel

theorem step_word {s : State} {w : Word} {rest : List Request} (hidle : s.seq = .idle)
    (hreq : s.requests = .word w :: rest) {i : Instr} (hw : decode w = .command i) :
    step s = exec i { s with requests := rest } := by
  simp [step, hidle, hreq, hw]

theorem step_record {s : State} {i : Instr} {rest : List Request} (hidle : s.seq = .idle)
    (hreq : s.requests = .record i :: rest) : step s = exec i { s with requests := rest } := by
  simp [step, hidle, hreq]

theorem step_running {s : State} {i : Instr} {k : Nat} (hs : s.seq = .running i k) :
    step s = .next (runOp (programOf s.cfg i) s) := by
  simp [step, resumeOp, hs]

/-- Settles O6. -/
theorem stepRunsDecoded : Obligations.StepRunsDecoded :=
  ⟨fun _ _ _ _ hidle hreq hw => step_word hidle hreq hw, fun _ _ _ hidle hreq => step_record hidle hreq,
    fun _ _ _ hs => step_running hs⟩

/-- A fetch sets the latch where `IOC_EN` and `IOC_CMP` of M1 are set, and leaves it elsewhere (R24). -/
theorem flagLatched_beginFetch (s : State) :
    flagLatched (beginFetch s) .m1 = ((m1Bit s s.ioc.en && m1Bit s s.ioc.cmp) || flagLatched s .m1) := by
  unfold flagLatched beginFetch m1Bit PinMap.pin
  cases hen : bitAt s.ioc.en s.cfg.pins.m1.bit <;> cases hcmp : bitAt s.ioc.cmp s.cfg.pins.m1.bit <;> simp [hen, hcmp]

theorem canRun_of_halted {s : State} (h : halted s = true) : canRun s = false := by
  simp [canRun, h]

/-- A target that is caught, and not in reset, does nothing (R25, R46). -/
theorem applyAct_of_halted {s : State} (hh : halted s = true) (hr : asserts s .reset = false) (a : EnvAct) :
    match a with
      | .int _ | .clk _ | .cancel | .user _ | .elapse _ => True
      | _ => applyAct s a = s := by
  cases a with
  | int | clk | cancel | user | elapse => trivial
  | m1Deassert => simp [applyAct, hh]
  | bank => simp [applyAct, canRun_of_halted hh, hr]
  | grant | resume | m1Assert | memWrite | io => simp [applyAct, canRun_of_halted hh]

/-- Settles O41. -/
theorem m1Latch : Obligations.M1Latch := by
  refine ⟨fun s hbus hm1 hrun => ?_, fun s a hh hr => applyAct_of_halted hh hr a⟩
  have hfetch : applyAct s .m1Assert = beginFetch s := by simp [applyAct, hbus, hm1, hrun]
  rw [hfetch]
  exact ⟨rfl, flagLatched_beginFetch s⟩

/-- Reading a port clears the latch where the port carries M1, and leaves the interrupt registers elsewhere (R24). -/
theorem flagLatched_touchPort {p : Port} {s : State} (h : p = s.cfg.pins.m1.port) :
    flagLatched (touchPort p s) .m1 = false := by
  simp [flagLatched, h]

theorem touchPort_ioc_other {p : Port} {s : State} (h : p ≠ s.cfg.pins.m1.port) : (touchPort p s).ioc = s.ioc := by
  simp [h]

/-- Settles O42: a sample, of a signal or of a port, is a read of its port, and `IocFlag` reads no port. -/
theorem sampleClearsLatch : Obligations.SampleClearsLatch :=
  fun _ => ⟨fun _ h => flagLatched_touchPort h, flagLatched_touchPort rfl, fun _ h => touchPort_ioc_other h,
    fun _ h => touchPort_ioc_other h, fun _ => rfl⟩

end Sys2Proof.Machine
end

section
/-! What a step can do to the registers and the target's memory comes down to boundaries, register writes and port reads. A
relation that each of these keeps is kept by every step. -/

namespace Sys2Proof.Machine

/-! ### The register writes that programs make -/

/-- The ports of the address and data buses, which carry no control signal (R13). -/
def BusPort (p : Port) : Prop := p = .addrHi ∨ p = .addrLo ∨ p = .dataLo

/-- What the lines of the programs latch and configure: bus ports, and the change interrupt of M1 (R23). -/
def Programmed : Prim → Prop
  | .latch p _ => BusPort p
  | .iocConfig g _ _ => g = .m1
  | .assert _ | .deassert _ | .drive _ | .float _ | .samplePort _ | .sample _ | .clkOut _ | .iocFlag _ => True

/-- A register write of a programmed primitive: it spares the control signals' pins but for the strobes' directions and
the latch bit of one signal, and touches no change interrupt but that of M1. -/
def ProgrammedWrite (c : Params) : RegWrite → Prop
  | .dirPort p _ | .outPort p _ => BusPort p
  | .dirStrobes _ => True
  | .outPin q _ => ∃ g, q = c.pins.pin g
  | .iocBit _ i _ => i = c.pins.m1.bit

theorem groupWrites_programmed {c : Params} {g : Group} {o : Bool} {w : RegWrite} (hw : w ∈ groupWrites c g o) :
    ProgrammedWrite c w := by
  cases g with
  | addr =>
    obtain ⟨p, hp, rfl⟩ := List.mem_map.mp hw
    unfold addrPorts at hp
    split at hp <;> simp at hp <;> rcases hp with rfl | rfl <;> simp [ProgrammedWrite, BusPort]
  | data =>
    obtain rfl := List.mem_singleton.mp hw
    exact .inr (.inr rfl)
  | strobes =>
    obtain rfl := List.mem_singleton.mp hw
    trivial

theorem writesOf_programmed {c : Params} {p : Prim} {w : RegWrite} (hp : Programmed p) (hw : w ∈ writesOf c p) :
    ProgrammedWrite c w := by
  cases p with
  | drive | float => exact groupWrites_programmed hw
  | samplePort | sample | iocFlag => cases hw
  | assert g | deassert g =>
    obtain rfl := List.mem_singleton.mp hw
    exact ⟨g, rfl⟩
  | clkOut =>
    obtain rfl := List.mem_singleton.mp hw
    exact ⟨.clkout, rfl⟩
  | latch =>
    obtain rfl := List.mem_singleton.mp hw
    exact hp
  | iocConfig =>
    obtain rfl := List.mem_singleton.mp hw
    cases hp
    rfl

/-- Every access of these lines is a programmed one. -/
def LinesProgrammed (prog : List ProgLine) : Prop := ∀ l ∈ prog, ∀ p, accessOf l.micro = some p → Programmed p

theorem linesProgrammed_append {a b : List ProgLine} (ha : LinesProgrammed a) (hb : LinesProgrammed b) :
    LinesProgrammed (a ++ b) := fun l hl => (List.mem_append.mp hl).elim (ha l) (hb l)

theorem linesProgrammed_nil : LinesProgrammed [] := fun _ h => nomatch h

theorem latchLines_programmed (c : Params) (a : Addr) : LinesProgrammed (latchLines c a) := by
  unfold latchLines
  split <;> simp [LinesProgrammed, ln, accessOf, Programmed, BusPort]

theorem readCycle_programmed (c : Params) (op : Op) (g : Signal) (a : Addr) : LinesProgrammed (readCycle c op g a) :=
  linesProgrammed_append (latchLines_programmed c a) (by simp [LinesProgrammed, ln, accessOf, Programmed])

theorem writeCycle_programmed (c : Params) (op : Op) (g : Signal) (a : Addr) (d : Byte) :
    LinesProgrammed (writeCycle c op g a d) :=
  linesProgrammed_append (latchLines_programmed c a) (by simp [LinesProgrammed, ln, accessOf, Programmed, BusPort])

theorem takeBusLines_programmed (k : Nat) : LinesProgrammed (takeBusLines k) := by
  simp [LinesProgrammed, takeBusLines, ln, accessOf, Programmed]

theorem takeBusEnd_programmed : LinesProgrammed takeBusEnd := by
  simp [LinesProgrammed, takeBusEnd, ln, accessOf, Programmed]

theorem resetLines_programmed (c : Params) : LinesProgrammed (resetLines c) := by
  simp [LinesProgrammed, resetLines, ln, accessOf, Programmed]

theorem programOf_programmed (c : Params) (i : Instr) : LinesProgrammed (programOf c i) := by
  cases i with
  | memRead | ioRead => exact readCycle_programmed _ _ _ _
  | memWrite | ioWrite | bankSelect => exact writeCycle_programmed _ _ _ _ _
  | latchAddress => exact latchLines_programmed _ _
  | reset => exact resetLines_programmed c
  | takeBus => exact linesProgrammed_append (takeBusLines_programmed _) takeBusEnd_programmed
  | takeBusBank =>
    exact linesProgrammed_append (takeBusLines_programmed _)
      (linesProgrammed_append (writeCycle_programmed _ _ _ _ _) takeBusEnd_programmed)
  | releaseBus r =>
    refine linesProgrammed_append (by simp [LinesProgrammed, ln, accessOf, Programmed])
      (linesProgrammed_append ?_ (by simp [LinesProgrammed, ln, accessOf, Programmed]))
    cases r
    · exact linesProgrammed_nil
    · exact resetLines_programmed c
  | normalClock => simp [programOf, normalClockProgram, LinesProgrammed, ln, accessOf, Programmed]
  | slowClock => simp [programOf, slowClockProgram, LinesProgrammed, ln, lnLoop, accessOf, Programmed]
  | singlestepOn => simp [programOf, singlestepOnProgram, LinesProgrammed, ln, accessOf, Programmed]
  | singlestepOff => simp [programOf, singlestepOffProgram, singlestepOffLines, LinesProgrammed, ln, accessOf, Programmed]
  | autostep =>
    simp [programOf, autostepProgram, stepWaitLines, m1ReleaseLine, singlestepOffLines, LinesProgrammed, ln, lnLoop,
      accessOf, Programmed]
  | stepWait => simp [programOf, stepWaitProgram, stepWaitLines, m1ReleaseLine, LinesProgrammed, ln, accessOf, Programmed]
  | m1ReleaseWait => simp [programOf, m1ReleaseWaitProgram, m1ReleaseLine, LinesProgrammed, ln, accessOf, Programmed]

/-! ### The sequencer's own moves -/

/-- The expanders' registers and the target are the same. -/
structure SameHardware (s t : State) : Prop where
  cfg : t.cfg = s.cfg
  dir : t.dir = s.dir
  out : t.out = s.out
  ioc : t.ioc = s.ioc
  target : t.target = s.target

/-- The operation in progress is the same one, or none is. -/
def SameOperation (q q' : Seq) : Prop := q' = .idle ∨ ∃ i k k', q = .running i k ∧ q' = .running i k'

theorem SameOperation.refl (q : Seq) : SameOperation q q := by
  cases q with
  | idle => exact .inl rfl
  | running i k => exact .inr ⟨i, k, k, rfl, rfl⟩

theorem SameOperation.trans {q q' q'' : Seq} (h : SameOperation q q') (k : SameOperation q' q'') :
    SameOperation q q'' := by
  rcases k with rfl | ⟨i, m, m', rfl, rfl⟩
  · exact .inl rfl
  · rcases h with h | ⟨j, n, n', rfl, h⟩
    · cases h
    · cases h
      exact .inr ⟨i, n, m', rfl, rfl⟩

/-- A move of the sequencer: the hardware stays, the operation in progress goes on or ends, and a fault or a kill that there
has been stays on record. -/
structure Control (s t : State) : Prop extends SameHardware s t where
  seq : SameOperation s.seq t.seq
  fault : s.fault ≠ none → t.fault ≠ none
  killed : s.killed = true → t.killed = true

theorem Control.of_eq {s t : State} (hw : SameHardware s t) (hseq : t.seq = s.seq) (hfault : t.fault = s.fault)
    (hkilled : t.killed = s.killed) : Control s t :=
  ⟨hw, hseq ▸ .refl _, by rw [hfault]; exact id, by rw [hkilled]; exact id⟩

theorem Bookkeeping.control {s t : State} (h : Bookkeeping s t) : Control s t := by
  refine .of_eq ?_ ?_ ?_ ?_
  · constructor <;> rw [h]
  all_goals rw [h]

theorem jumpTo_control (k : Nat) (s : State) : Control s (jumpTo k s) := by
  refine ⟨⟨rfl, rfl, rfl, rfl, rfl⟩, ?_, id, id⟩
  unfold jumpTo
  cases hq : s.seq with
  | idle => exact .inl rfl
  | running i j => exact .inr ⟨i, j, k, rfl, rfl⟩

theorem advance_control (k : Nat) (l : ProgLine) (s : State) : Control s (advance k l s) := jumpTo_control _ s

theorem opReturn_control (s : State) : Control s (opReturn s) := ⟨⟨rfl, rfl, rfl, rfl, rfl⟩, .inl rfl, id, id⟩

theorem takeKill_control (s : State) : Control s (takeKill s) :=
  ⟨⟨rfl, rfl, rfl, rfl, rfl⟩, .inl rfl, id, fun _ => rfl⟩

theorem takeCancel_control (s : State) : Control s (takeCancel s) := by
  refine ⟨⟨rfl, rfl, rfl, rfl, rfl⟩, ?_, id, id⟩
  unfold takeCancel
  cases hq : s.seq with
  | idle => exact .inl rfl
  | running i k =>
    cases hh : scopeHandler i with
    | none => exact .inl (by simp [hh])
    | some h => exact .inr ⟨i, k, h, rfl, by simp [hh]⟩

theorem raiseFault_control (f : Fault) (s : State) : Control s (raiseFault f s) := by
  refine ⟨⟨rfl, rfl, rfl, rfl, rfl⟩, ?_, fun _ => nofun, id⟩
  unfold raiseFault
  cases hq : s.seq with
  | idle => exact .inl rfl
  | running i k =>
    cases hh : scopeHandler i with
    | none => exact .inl (by simp [hh])
    | some h =>
      by_cases hlt : k < h
      · exact .inr ⟨i, k, h, rfl, by simp [hh, hlt]⟩
      · exact .inl (by simp [hh, hlt])

theorem timeOut_control (w : Wait) (c : Option Nat) (s : State) : Control s (timeOut w c s) := by
  rcases timeOut_cases w c s with ⟨k, _, e⟩ | ⟨_, e⟩ <;> rw [e]
  · exact jumpTo_control k s
  · exact raiseFault_control _ s

theorem pollFailed_control (w : Wait) (c : Option Nat) (s : State) : Control s (pollFailed w c s) := by
  unfold pollFailed
  split
  · exact .of_eq ⟨rfl, rfl, rfl, rfl, rfl⟩ rfl rfl rfl
  · split
    · exact timeOut_control w c s
    · exact .of_eq ⟨rfl, rfl, rfl, rfl, rfl⟩ rfl rfl rfl

/-! ### From register writes to steps -/

/-- A relation that everything a run of an operation is made of keeps. -/
structure RunLaw (R : State → State → Prop) : Prop where
  trans : ∀ {s t u : State}, R s t → R t u → R s u
  control : ∀ {s t : State}, Control s t → R s t
  env : ∀ {s t : State}, EnvKept s t → R s t
  write : ∀ {s : State} {w : RegWrite}, ProgrammedWrite s.cfg w → R s (applyWrite s w)
  touch : ∀ (p : Port) (s : State), R s (touchPort p s)

/-- A relation that everything a step is made of keeps: runs, and the beginning of an operation. -/
structure StepLaw (R : State → State → Prop) : Prop extends RunLaw R where
  begins : ∀ (i : Instr) (s : State), R s (beginOp i s)

section
variable {R : State → State → Prop}

theorem RunLaw.refl (law : RunLaw R) (s : State) : R s s :=
  law.control (.of_eq ⟨rfl, rfl, rfl, rfl, rfl⟩ rfl rfl rfl)

/-- An assignment to the controller's records. -/
theorem RunLaw.assign (law : RunLaw R) {s t : State} (hw : SameHardware s t) (hseq : t.seq = s.seq)
    (hfault : t.fault = s.fault) (hkilled : t.killed = s.killed) : R s t := law.control (.of_eq hw hseq hfault hkilled)

theorem RunLaw.applyWrites (law : RunLaw R) {l : List RegWrite} {s : State}
    (h : ∀ w ∈ l, ProgrammedWrite s.cfg w) : R s (applyWrites s l) := by
  induction l generalizing s with
  | nil => exact law.refl s
  | cons w l ih =>
    refine law.trans (law.write (h w (List.mem_cons_self ..))) (ih fun x hx => ?_)
    rw [(applyWrite_kept s w).cfg]
    exact h x (List.mem_cons_of_mem _ hx)

theorem RunLaw.accessEffect (law : RunLaw R) {p : Prim} (hp : Programmed p) (s : State) : R s (accessEffect p s) := by
  cases p with
  | samplePort | sample => exact law.touch _ s
  | iocFlag => exact law.refl s
  | assert | deassert | drive | float | latch | clkOut | iocConfig =>
    exact law.applyWrites fun _ hw => writesOf_programmed hp hw

theorem RunLaw.perform (law : RunLaw R) {p : Prim} (hp : Programmed p) (s : State) : R s (perform p s) :=
  law.trans (law.accessEffect hp s) (law.assign ⟨rfl, rfl, rfl, rfl, rfl⟩ rfl rfl rfl)

theorem RunLaw.abortEffect (law : RunLaw R) {p : Prim} (hp : Programmed p) (n : Nat) (s : State) :
    R s (abortEffect p n s) := by
  cases p with
  | samplePort | sample | iocFlag =>
    simp only [Machine.abortEffect]
    split
    · exact law.refl s
    · exact law.accessEffect hp s
  | assert | deassert | drive | float | latch | clkOut | iocConfig =>
    exact law.applyWrites fun _ hw => writesOf_programmed hp (List.mem_of_mem_take hw)

theorem RunLaw.access (law : RunLaw R) {p : Prim} (hp : Programmed p) {k : State → State} (hk : ∀ t, R t (k t))
    (pos : Pos) (s : State) : R s (access p pos k s) := by
  refine law.trans (law.env (boundary_kept s)) ?_
  rcases access_cases p pos k s with ⟨_, e⟩ | ⟨_, ⟨_, e⟩ | ⟨n, _, e⟩ | ⟨_, e⟩⟩ <;> rw [e]
  · exact law.control (takeCancel_control _)
  · exact hk _
  · exact law.trans (law.abortEffect hp n _) (law.control (raiseFault_control _ _))
  · exact law.control (takeKill_control _)

theorem RunLaw.sleepFor (law : RunLaw R) {k : State → State} (hk : ∀ t, R t (k t)) (d : State → Quantity) (s : State) :
    R s (sleepFor d k s) := by
  have hbefore : R s (boundary s).1 := law.env (boundary_kept s)
  have hinside : R s (boundary (boundary s).1).1 := law.trans hbefore (law.env (boundary_kept _))
  have hslept (e : Event) (now : Quantity) : R s (emit e { (boundary (boundary s).1).1 with now := now }) :=
    law.trans hinside (law.assign ⟨rfl, rfl, rfl, rfl, rfl⟩ rfl rfl rfl)
  rcases sleepFor_cases d k s with e | e | e | e | e <;> rw [e]
  · exact law.trans hbefore (law.control (takeCancel_control _))
  · exact law.trans hbefore (law.control (takeKill_control _))
  · exact law.trans (hslept _ _) (law.control (takeCancel_control _))
  · exact law.trans hinside (law.control (takeKill_control _))
  · exact law.trans (hslept _ _) (hk _)

theorem RunLaw.settle (law : RunLaw R) {k : State → State} (hk : ∀ t, R t (k t)) (s : State) : R s (settle k s) := by
  refine law.trans (law.env (boundary_kept s)) ?_
  rcases settle_cases k s with ⟨_, e⟩ | ⟨_, e⟩ <;> rw [e]
  · exact law.control (takeKill_control _)
  · exact hk _

theorem RunLaw.sampled (law : RunLaw R) {p : Prim} (hp : Programmed p) (c : Prop) [Decidable c] (k : Nat) (l : ProgLine)
    (w : Wait) (o : Option Nat) (s : State) :
    R s (if c then advance k l (Machine.perform p s) else pollFailed w o (Machine.perform p s)) := by
  refine law.trans (law.perform hp s) ?_
  split
  · exact law.control (advance_control k l _)
  · exact law.control (pollFailed_control w o _)

/-- An assignment, and then the next line. -/
theorem RunLaw.assignAdvance (law : RunLaw R) {s t : State} (k : Nat) (l : ProgLine) (hw : SameHardware s t)
    (hseq : t.seq = s.seq) (hfault : t.fault = s.fault) (hkilled : t.killed = s.killed) : R s (advance k l t) :=
  law.trans (law.assign hw hseq hfault hkilled) (law.control (advance_control k l t))

theorem RunLaw.doLine (law : RunLaw R) {l : ProgLine} (hl : ∀ p, accessOf l.micro = some p → Programmed p) (k : Nat)
    (s : State) : R s (doLine k l s) := by
  obtain ⟨pos, micro, jump⟩ := l
  cases micro with simp only [Machine.doLine]
  | prim p =>
    exact law.access (hl p rfl)
      (fun t => law.trans (law.perform (hl p rfl) t) (law.control (advance_control k _ _))) _ s
  | readData =>
    refine law.access (hl _ rfl) (fun t => law.trans (law.perform (hl _ rfl) t) ?_) _ s
    exact law.assignAdvance k _ ⟨rfl, rfl, rfl, rfl, rfl⟩ rfl rfl rfl
  | poll | pollFlag => exact law.access (hl _ rfl) (fun t => law.sampled (hl _ rfl) _ k _ _ _ t) _ s
  | sleep | pace => exact law.sleepFor (fun t => law.control (advance_control k _ t)) _ s
  | armed => exact law.settle (fun t => law.assignAdvance (t := setArmed t) k _ ⟨rfl, rfl, rfl, rfl, rfl⟩ rfl rfl rfl) s
  | whileArmed exit =>
    split
    · exact law.control (advance_control k _ s)
    · exact law.control (jumpTo_control exit s)
  | fail f => exact law.control (raiseFault_control f s)
  | ret => exact law.control (opReturn_control s)
  | stampT0 | own | mode | disarmed => exact law.assignAdvance k _ ⟨rfl, rfl, rfl, rfl, rfl⟩ rfl rfl rfl

theorem RunLaw.tick (law : RunLaw R) {prog : List ProgLine} (hprog : LinesProgrammed prog) (s : State) :
    R s (tick prog s) := by
  unfold Machine.tick
  split
  · exact law.refl s
  · split
    · next hl => exact law.doLine (hprog _ (List.mem_of_getElem? hl)) _ s
    · exact law.control (opReturn_control s)

theorem RunLaw.runOp (law : RunLaw R) (c : Params) (i : Instr) (s : State) : R s (runOp (programOf c i) s) :=
  runProg_induct (P := R s) (fun u _ _ _ hu => law.trans hu (law.tick (programOf_programmed c i) u)) _ (law.refl s)

theorem StepLaw.exec (law : StepLaw R) {i : Instr} {s t : State} (h : exec i s = .next t) : R s t := by
  obtain ⟨_, _, rfl⟩ := exec_next h
  exact law.trans (law.begins i s) (law.runOp s.cfg i _)

theorem RunLaw.showIntTurn (law : RunLaw R) (last : Option Bool) (s : State) : R s (showIntTurn last s) := by
  refine law.access (p := .sample .int) trivial
    (fun t => law.trans (law.perform (p := .sample .int) trivial t) ?_) _ s
  dsimp only
  split <;> exact law.assign ⟨rfl, rfl, rfl, rfl, rfl⟩ rfl rfl rfl

theorem StepLaw.requestTurn (law : StepLaw R) {s t : State} (h : RequestTurn s t) : R s t := by
  cases h with
  | issued i run before => exact law.trans (law.control before.control) (law.exec run)
  | noted note => exact law.control note.control
  | environment => exact law.env (boundary_kept s)
  | waited before => exact law.trans (law.control before.control) (law.settle law.refl _)
  | sampledInt last before => exact law.trans (law.control before.control) (law.showIntTurn last _)

/-- EVERY STEP, faulted or not, keeps what boundaries, programmed register writes, port reads and the sequencer's own moves
keep. -/
theorem StepLaw.step (law : StepLaw R) {s t : State} (h : step s = .next t) : R s t := by
  rcases step_cases h with ⟨i, _, _, rfl⟩ | ⟨_, hturn⟩
  · exact law.runOp _ i s
  · exact law.requestTurn hturn

end

end Sys2Proof.Machine
end

section
/-! No step configures the change interrupt of a pin other than that of M1 (R23, R189). -/

namespace Sys2Proof.Machine

/-- The change interrupt of every pin but that of M1: its configuration stays, and its flag is not set. -/
structure OtherPinsQuiet (s t : State) : Prop where
  cfg : t.cfg = s.cfg
  en : ∀ j, j ≠ s.cfg.pins.m1.bit → bitAt t.ioc.en j = bitAt s.ioc.en j
  dflt : ∀ j, j ≠ s.cfg.pins.m1.bit → bitAt t.ioc.dflt j = bitAt s.ioc.dflt j
  cmp : ∀ j, j ≠ s.cfg.pins.m1.bit → bitAt t.ioc.cmp j = bitAt s.ioc.cmp j
  flag : ∀ j, j ≠ s.cfg.pins.m1.bit → bitAt t.ioc.flag j = true → bitAt s.ioc.flag j = true

theorem OtherPinsQuiet.of_ioc_eq {s t : State} (hcfg : t.cfg = s.cfg) (h : t.ioc = s.ioc) : OtherPinsQuiet s t := by
  constructor <;> simp [hcfg, h]

theorem OtherPinsQuiet.trans {s t u : State} (h : OtherPinsQuiet s t) (k : OtherPinsQuiet t u) : OtherPinsQuiet s u where
  cfg := k.cfg.trans h.cfg
  en j hj := (k.en j (by rwa [h.cfg])).trans (h.en j hj)
  dflt j hj := (k.dflt j (by rwa [h.cfg])).trans (h.dflt j hj)
  cmp j hj := (k.cmp j (by rwa [h.cfg])).trans (h.cmp j hj)
  flag j hj hset := h.flag j hj (k.flag j (by rwa [h.cfg]) hset)

theorem EnvKept.otherPinsQuiet {s t : State} (h : EnvKept s t) : OtherPinsQuiet s t where
  cfg := h.cfg
  en j _ := by rw [h.en]
  dflt j _ := by rw [h.dflt]
  cmp j _ := by rw [h.cmp]
  flag j hj hset := by rwa [← h.flag j hj]

/-- A write of an interrupt-on-change register is one of the bit of M1. -/
theorem iocBit_otherPinsQuiet (f : IocField) (v : Bool) (s : State) :
    OtherPinsQuiet s (storeWrite (.iocBit f s.cfg.pins.m1.bit v) s) := by
  cases f with
  | cmp | dflt => constructor <;> simp +contextual [storeWrite, bitAt_setBit_other]
  | en =>
    cases v <;> constructor <;> simp +contextual [storeWrite, bitAt_setBit_other]

theorem storeWrite_otherPinsQuiet {s : State} {w : RegWrite} (hw : ProgrammedWrite s.cfg w) :
    OtherPinsQuiet s (storeWrite w s) := by
  cases w with
  | iocBit f i v =>
    cases hw
    exact iocBit_otherPinsQuiet f v s
  | dirPort | dirStrobes | outPin | outPort => exact .of_ioc_eq rfl rfl

theorem touchPort_otherPinsQuiet (p : Port) (s : State) : OtherPinsQuiet s (touchPort p s) := by
  by_cases h : p = s.cfg.pins.m1.port
  · constructor <;> simp [h]
  · exact .of_ioc_eq rfl (touchPort_ioc_other h)

theorem otherPinsQuiet_law : StepLaw OtherPinsQuiet where
  trans := OtherPinsQuiet.trans
  control h := .of_ioc_eq h.cfg h.ioc
  begins _ _ := .of_ioc_eq rfl rfl
  env := EnvKept.otherPinsQuiet
  write {s _} hw :=
    (storeWrite_otherPinsQuiet hw).trans (.of_ioc_eq (react_board s _).kept.cfg (react_board s _).ioc)
  touch := touchPort_otherPinsQuiet

/-- Settles O52: the only writes of the interrupt registers are of the bit of M1, and only a fetch sets a flag. -/
theorem otherPinsNeverInterrupt : Obligations.OtherPinsNeverInterrupt := by
  intro s t j hstep hj
  have h := otherPinsQuiet_law.step hstep
  exact ⟨h.en j hj, h.dflt j hj, h.cmp j hj, h.flag j hj⟩

end Sys2Proof.Machine
end

section
/-! No step changes the direction of a control signal other than a strobe (R14, R16). -/

namespace Sys2Proof.Machine

/-- No signal is on a port of the address or data bus (R13). -/
theorem not_busPort {p : PinMap} (h : p.WellFormed) (g : Signal) : ¬ BusPort (p.pin g).port := by
  obtain ⟨_, hports, _, _⟩ := h
  have hg := List.all_eq_true.mp hports g (by cases g <;> decide)
  simp only [Bool.and_eq_true, bne_iff_ne] at hg
  obtain ⟨⟨hdata, hhi⟩, hlo⟩ := hg
  rintro (e | e | e)
  · exact hhi e
  · exact hlo e
  · exact hdata e

/-- A write of whole bus ports leaves the pins of the signals. -/
theorem getPin_set_busPort {c : Params} (hc : c.pins.WellFormed) {p : Port} (hp : BusPort p) (r : Ports) (v : Byte)
    (g : Signal) : getPin (r.set p v) (c.pins.pin g) = getPin r (c.pins.pin g) :=
  getPin_set_other r v fun e => not_busPort hc g (by rwa [e])

/-- The write of several signals' pins at one level. -/
def setSignals (c : Params) (l : Bool) (gs : List Signal) (r : Ports) : Ports :=
  gs.foldl (fun r g => setPin r (c.pins.pin g) l) r

theorem getPin_setSignals_other {c : Params} {l : Bool} {gs : List Signal} {q : Pin} (h : ∀ g ∈ gs, q ≠ c.pins.pin g)
    (r : Ports) : getPin (setSignals c l gs r) q = getPin r q := by
  induction gs generalizing r with
  | nil => rfl
  | cons g gs ih =>
    exact (ih (fun k hk => h k (List.mem_cons_of_mem _ hk)) _).trans
      (getPin_setPin_other _ _ (h g (List.mem_cons_self ..)))

theorem getPin_setSignals_mem {c : Params} {l : Bool} {gs : List Signal} {g : Signal} (h : g ∈ gs) (r : Ports) :
    getPin (setSignals c l gs r) (c.pins.pin g) = l := by
  induction gs generalizing r g with
  | nil => cases h
  | cons k gs ih =>
    by_cases hlater : ∀ x ∈ gs, c.pins.pin g ≠ c.pins.pin x
    · have hk : g = k := (List.mem_cons.mp h).resolve_right fun hg => hlater g hg rfl
      subst hk
      exact (getPin_setSignals_other hlater _).trans (getPin_setPin_same _ _ _)
    · push Not at hlater
      obtain ⟨x, hx, e⟩ := hlater
      rw [e]
      exact ih hx _

theorem storeWrite_dirStrobes (o : Bool) (s : State) :
    (storeWrite (.dirStrobes o) s).dir = setSignals s.cfg (dirBit s.cfg o) strobes s.dir := rfl

/-- A signal that is no strobe keeps its direction at a programmed write. -/
theorem isOutput_storeWrite {s : State} (hc : s.cfg.pins.WellFormed) {w : RegWrite} (hw : ProgrammedWrite s.cfg w)
    {g : Signal} (hg : g ∉ strobes) : isOutput (storeWrite w s) (s.cfg.pins.pin g) = isOutput s (s.cfg.pins.pin g) := by
  unfold isOutput
  rw [(storeWrite_kept w s).cfg]
  congr 1
  cases w with
  | dirPort p o => exact getPin_set_busPort hc hw _ _ g
  | dirStrobes o =>
    rw [storeWrite_dirStrobes]
    exact getPin_setSignals_other (fun k hk => PinMap.WellFormed.pin_ne hc fun e => hg (by rwa [e])) _
  | outPin | outPort => rfl
  | iocBit f => cases f <;> rfl

/-- Every signal but the strobes keeps its direction, and the memory its canonical form. -/
structure RolesFixed (s t : State) : Prop where
  cfg : t.cfg = s.cfg
  output : s.cfg.pins.WellFormed → ∀ g, g ∉ strobes → isOutput t (s.cfg.pins.pin g) = isOutput s (s.cfg.pins.pin g)
  memory : s.target.mem.wf = true → t.target.mem.wf = true

theorem isOutput_congr {s t : State} (hcfg : t.cfg = s.cfg) (hdir : t.dir = s.dir) (q : Pin) :
    isOutput t q = isOutput s q := by
  unfold isOutput
  rw [hcfg, hdir]

theorem RolesFixed.of_dir_eq {s t : State} (hcfg : t.cfg = s.cfg) (hdir : t.dir = s.dir)
    (hmem : s.target.mem.wf = true → t.target.mem.wf = true) : RolesFixed s t :=
  ⟨hcfg, fun _ _ _ => isOutput_congr hcfg hdir _, hmem⟩

theorem RolesFixed.trans {s t u : State} (h : RolesFixed s t) (k : RolesFixed t u) : RolesFixed s u where
  cfg := k.cfg.trans h.cfg
  output hc g hg := by
    have hk := k.output (by rwa [h.cfg]) g hg
    rw [h.cfg] at hk
    exact hk.trans (h.output hc g hg)
  memory x := k.memory (h.memory x)

theorem rolesFixed_law : StepLaw RolesFixed where
  trans := RolesFixed.trans
  control h := .of_dir_eq h.cfg h.dir (by rw [h.target]; exact id)
  begins _ _ := .of_dir_eq rfl rfl id
  env h := .of_dir_eq h.cfg h.dir h.memory
  write {s w} hw := by
    have hstore : RolesFixed s (storeWrite w s) :=
      ⟨(storeWrite_kept w s).cfg, fun hc _ hg => isOutput_storeWrite hc hw hg, (storeWrite_kept w s).memory⟩
    have hboard := react_board s (storeWrite w s)
    exact hstore.trans (.of_dir_eq hboard.kept.cfg hboard.dir hboard.memory)
  touch _ _ := .of_dir_eq rfl rfl id

theorem RolesFixed.pinRoles {s t : State} (h : RolesFixed s t) (hc : s.cfg.pins.WellFormed) (hs : pinRoles s) :
    pinRoles t := by
  obtain ⟨houtputs, hinputs⟩ := hs
  refine ⟨fun g hg => ?_, fun g hg => ?_⟩ <;> rw [h.cfg, h.output hc g (by revert hg; cases g <;> decide)]
  · exact houtputs g hg
  · exact hinputs g hg

/-- Settles O53: the programs write whole directions of bus ports and those of the strobes, and no signal with a fixed
role is there (R13). -/
theorem pinRolesKept : Obligations.PinRolesKept := by
  intro s t hc hs hstep
  obtain ⟨hpins, _⟩ := hc
  have h := rolesFixed_law.step hstep
  exact ⟨h.pinRoles hpins hs, h.memory⟩

end Sys2Proof.Machine
end

section
/-! What the handshake phases say of the bus in a state with the invariant, and why no wire of it is in contention
(R20, R22, R217). -/

namespace Sys2Proof.Machine

/-! ### Groups and lines -/

theorem isOutput_of_allPins {s : State} {q : Pin} {o : Bool} (h : s.dir.get q.port = allPins s.cfg o) :
    isOutput s q = o := by
  simp [isOutput, getPin, h]

theorem isOutput_addr_of_floats {s : State} (h : addrFloats s) {q : Pin} (hq : q.port = .addrHi ∨ q.port = .addrLo) :
    isOutput s q = false := by
  apply isOutput_of_allPins
  rcases hq with e | e <;> rw [e]
  · exact h.1
  · exact h.2

theorem isOutput_data_of_floats {s : State} (h : dataFloats s) {q : Pin} (hq : q.port = .dataLo) :
    isOutput s q = false := by
  apply isOutput_of_allPins
  rw [hq]
  exact h

/-- A driven line is asserted or de-asserted (R15). -/
theorem line_of_output {s : State} {g : Signal} (h : isOutput s (s.cfg.pins.pin g) = true) (hl : line s g ≠ .asserted) :
    line s g = .deasserted := by
  unfold line at hl ⊢
  rw [if_pos h] at hl ⊢
  split at hl
  · exact absurd rfl hl
  · next hne => exact if_neg hne

theorem levelOf_ne (c : Params) (g : Signal) : levelOf c g false ≠ assertedLevel c g := by
  simp [levelOf]

/-- A strobe whose latch is inactive is not asserted. -/
theorem asserts_of_latch {s : State} {g : Signal} (h : latchAt s g false) : asserts s g = false := by
  have hne : getPin s.out (s.cfg.pins.pin g) ≠ assertedLevel s.cfg g := by
    rw [show getPin s.out (s.cfg.pins.pin g) = _ from h]
    exact levelOf_ne _ _
  unfold asserts line
  simp only [hne, if_false]
  split <;> rfl

/-! ### What the invariant says with the bus Acquired and Released -/

/-- With the bus Acquired it is driven, requested and granted. -/
abbrev busHeld (s : State) : Prop :=
  line s .busreq = .asserted ∧ addrDriven s ∧ strobesDriven s ∧ s.target.ownsBus = false

/-- The groups ADDR and STROBES float and the bus is not requested. -/
abbrev busIdle (s : State) : Prop := line s .busreq = .deasserted ∧ addrFloats s ∧ strobesFloat s

theorem Good.busHeld {s : State} (h : Good s) (ho : s.own = .acquired) : busHeld s := by
  obtain ⟨haddr, hstrobes, hreq, hbus⟩ := h.driven.1 ho
  exact ⟨hreq, haddr, hstrobes, hbus⟩

theorem Good.own_of_writeAt {s : State} (h : Good s) {k : Nat} (hk : writeAt s.seq = some k) : s.own = .acquired :=
  h.position.1 (by simp [hk])

theorem Good.own_of_driveData {s : State} (h : Good s) (hd : driveData s.seq = true) : s.own = .acquired := by
  unfold driveData at hd
  split at hd
  · next k hk => exact h.own_of_writeAt hk
  · cases hd

/-- While Released DATA floats (I-DATA). -/
theorem Good.dataFloats {s : State} (h : Good s) (ho : s.own = .released) : dataFloats s := by
  have hd : driveData s.seq = false := by
    rw [Bool.eq_false_iff]
    intro hd
    rw [h.own_of_driveData hd] at ho
    cases ho
  obtain ⟨_, _, hdata⟩ := h.floating
  rw [hd] at hdata
  exact hdata

theorem Good.busreq_output {s : State} (h : Good s) : isOutput s (s.cfg.pins.pin .busreq) = true :=
  h.roles.1 .busreq (by decide)

/-- Who drives a group has asked for the bus (I-OWN). -/
theorem Good.busIdle_of_not_asserted {s : State} (h : Good s) (hl : line s .busreq ≠ .asserted) : busIdle s := by
  obtain ⟨_, hgranted, _⟩ := h.driven
  have hnot := mt hgranted fun hg => hl hg.1
  push Not at hnot
  exact ⟨line_of_output h.busreq_output hl, hnot.1, hnot.2.1⟩

theorem Good.ownsBus_of_driven {s : State} (h : Good s)
    (hd : ¬ addrFloats s ∨ ¬ strobesFloat s ∨ ¬ Machine.dataFloats s) : s.target.ownsBus = false := (h.driven.2.1 hd).2

/-- With the bus Acquired the strobe latches stand as the position asks (I-STROBE). -/
theorem Good.strobesAsPlaced {s : State} (h : Good s) (ho : s.own = .acquired) : strobesAsPlaced s := by
  obtain ⟨_, hwindow⟩ := h.window
  obtain ⟨_, _, hstrobes, _⟩ := h.busHeld ho
  have hs := hwindow hstrobes
  rwa [if_neg (by simp [ho])] at hs

/-! ### No contention -/

/-- While the controller drives DATA it is in a write cycle, where RD is not asserted and no device answers (I-EXCL). -/
theorem Good.rd_inactive_of_driveData {s : State} (h : Good s) (hd : driveData s.seq = true) :
    asserts s .rd = false := by
  have hplaced := h.strobesAsPlaced (h.own_of_driveData hd) .rd (by decide)
  apply asserts_of_latch
  have hactive : activeStrobe s.seq .rd = false := by
    unfold driveData at hd
    split at hd
    · next k hk =>
      have hreq : requestOf s.seq ≠ .rd := by unfold requestOf; split <;> decide
      simp [activeStrobe, hk, hreq.symm]
    · cases hd
  rwa [hactive] at hplaced

theorem Good.driveData_of_output {s : State} (h : Good s) (hd : ¬ Machine.dataFloats s) : driveData s.seq = true := by
  by_contra hn
  obtain ⟨_, _, hdata⟩ := h.floating
  rw [if_neg hn] at hdata
  exact hd hdata

theorem targetWire_addr {s : State} {q : Pin} (hq : q.port = .addrHi ∨ q.port = .addrLo) (hb : s.target.ownsBus = false) :
    targetWire s q = .released := by
  unfold targetWire
  rcases hq with e | e <;> simp [e, hb]

theorem targetWire_data {s : State} {q : Pin} (hq : q.port = .dataLo) (hb : s.target.ownsBus = false)
    (hr : asserts s .rd = false) (ho : s.own = .acquired) : targetWire s q = .released := by
  simp [targetWire, hq, hb, deviceMayDrive, ioReadWindow, memoryDrives, memReadWindow, hr, ho]

theorem targetWire_strobe {s : State} (hc : s.cfg.pins.WellFormed) {g : Signal} (hg : g ∈ strobes)
    (hb : s.target.ownsBus = false) : targetWire s (s.cfg.pins.pin g) = .released := by
  have hport := not_busPort hc g
  have hnone : targetSignals.find? (fun k => s.cfg.pins.pin k == s.cfg.pins.pin g) = none := by
    rw [List.find?_eq_none]
    intro k hk e
    refine PinMap.WellFormed.pin_ne hc (fun hkg : k = g => ?_) (by simpa using e)
    subst hkg
    revert hk hg
    cases k <;> decide
  unfold targetWire
  split
  · next e => exact absurd (.inr (.inr e)) hport
  · next e => exact absurd (.inl e) hport
  · next e => exact absurd (.inr (.inl e)) hport
  · simp [hnone, hb]

/-- No wire of ADDR, DATA or STROBES is driven from both sides (R20, I-EXCL). -/
theorem Good.no_contention {s : State} (h : Good s) {q : Pin}
    (hq : q.port = .addrHi ∨ q.port = .addrLo ∨ q.port = .dataLo ∨ ∃ g ∈ strobes, q = s.cfg.pins.pin g) :
    contention s q = false := by
  obtain ⟨hpins, _⟩ := h.params
  have hreleased : isOutput s q = true → targetWire s q = .released := by
    intro hout
    have key : q.port = .addrHi ∨ q.port = .addrLo → targetWire s q = .released := fun hq =>
      targetWire_addr hq (h.ownsBus_of_driven (.inl fun hf => by simp [isOutput_addr_of_floats hf hq] at hout))
    rcases hq with e | e | e | ⟨g, hg, rfl⟩
    · exact key (.inl e)
    · exact key (.inr e)
    · have hdriven : ¬ Machine.dataFloats s := fun hf => by simp [isOutput_data_of_floats hf e] at hout
      have hdrive := h.driveData_of_output hdriven
      exact targetWire_data e (h.ownsBus_of_driven (.inr (.inr hdriven))) (h.rd_inactive_of_driveData hdrive)
        (h.own_of_driveData hdrive)
    · exact targetWire_strobe hpins hg
        (h.ownsBus_of_driven (.inr (.inl fun hf => by simp [hf g hg] at hout)))
  cases hout : isOutput s q with
  | false => simp [contention, hout]
  | true => simp [contention, hreleased hout]

/-! ### The phases -/

theorem phase_acquired {s : State} (ho : s.own = .acquired) : phase s = .acquired := by
  simp [phase, ho]

/-- Released, with BUSREQ not asserted, the phase is the first or the last (R22). -/
theorem phase_of_not_asserted {s : State} (ho : s.own = .released) (hl : line s .busreq ≠ .asserted) :
    phase s = .released ∨ phase s = .returning := by
  cases hline : line s .busreq with
  | asserted => exact absurd hline hl
  | deasserted | floating =>
    cases hq : s.seq with
    | idle => exact .inl (by simp [phase, ho, hline, hq])
    | running i k =>
      cases i with
      | releaseBus r =>
        simp only [phase, ho, hline, hq]
        exact (ite_eq_or_eq _ _ _).symm
      | _ => exact .inl (by simp [phase, ho, hline, hq])

/-- Outside `TAKE_BUS` and `RELEASE_BUS`, while Released, BUSREQ is not asserted. -/
theorem Good.not_outside {s : State} (h : Good s) (ho : s.own = .released) (hl : line s .busreq = .asserted) :
    ¬ (takeAt s.seq = none ∧ withdrawAt s.seq = none ∧ releaseAt s.seq = none) := by
  rintro ⟨htake, hwithdraw, hrelease⟩
  obtain ⟨_, _, hreq⟩ := h.outside ho htake hwithdraw hrelease
  rw [hl] at hreq
  cases hreq

/-- Released, with BUSREQ asserted, the phase is that of the take or the release in progress (R22). -/
theorem Good.phase_of_asserted {s : State} (h : Good s) (ho : s.own = .released) (hl : line s .busreq = .asserted) :
    (phase s = .floated ∧ ∃ p, releaseAt s.seq = some p) ∨
      (∃ k, takeAt s.seq = some k ∧ k ≤ 8 ∧ phase s = if k < 2 then .requesting else .setup) ∨
      (phase s = .requesting ∧ ∃ k, withdrawAt s.seq = some k) := by
  have hout := h.not_outside ho hl
  have hnotake : ∀ k, takeAt s.seq = some k → k ≠ 9 := by
    intro k hk e
    have hacq := h.position.2.2.1 k hk e
    rw [ho] at hacq
    cases hacq
  cases hq : s.seq with
  | idle => simp [hq, takeAt, withdrawAt, releaseAt] at hout
  | running i k =>
    cases i with
    | releaseBus r => exact .inl ⟨by simp [phase, ho, hl, hq], _, rfl⟩
    | takeBus =>
      rcases Nat.lt_or_ge 8 k with hk | hk
      · have h9 : k ≠ 9 := fun e => hnotake 9 (by simp [hq, e, takeAt]) rfl
        exact .inr (.inr ⟨by simp [phase, ho, hl, hq, hk], _, by simp [withdrawAt, show 10 ≤ k by omega]; rfl⟩)
      · exact .inr (.inl ⟨k, by simp [takeAt]; omega, hk, by simp [phase, ho, hl, hq, Nat.not_lt.mpr hk]⟩)
    | takeBusBank b =>
      rcases Nat.lt_or_ge 8 k with hk | hk
      · have h18 : ¬ (9 ≤ k ∧ k ≤ 18) := by
          intro hr
          have hacq := h.own_of_writeAt (k := k - 9) (by simp [hq, writeAt, hr])
          rw [ho] at hacq
          cases hacq
        exact .inr (.inr ⟨by simp [phase, ho, hl, hq, hk], _, by simp [withdrawAt, show 19 ≤ k by omega]; rfl⟩)
      · exact .inr (.inl ⟨k, by simp [takeAt]; omega, hk, by simp [phase, ho, hl, hq, Nat.not_lt.mpr hk]⟩)
    | _ => simp [hq, takeAt, withdrawAt, releaseAt] at hout

/-- The rows of R22's table. -/
def PhaseRow (s : State) : Phase → Prop
  | .released | .returning => line s .busreq = .deasserted ∧ addrFloats s ∧ strobesFloat s ∧ dataFloats s
  | .requesting => line s .busreq = .asserted ∧ addrFloats s ∧ strobesFloat s ∧ dataFloats s
  | .setup => line s .busreq = .asserted ∧ dataFloats s ∧ s.target.ownsBus = false
  | .acquired => busHeld s
  | .floated =>
    line s .busreq = .asserted ∧ dataFloats s ∧ ∀ p ∈ releaseAt s.seq, 4 ≤ p.1 → addrFloats s ∧ strobesFloat s

theorem Good.phaseRow_take {s : State} (h : Good s) (ho : s.own = .released) (hl : line s .busreq = .asserted) {k : Nat}
    (hk : takeAt s.seq = some k) (h8 : k ≤ 8) : PhaseRow s (if k < 2 then .requesting else .setup) := by
  obtain ⟨haddr, hstrobes, _⟩ := h.taking ho k hk
  split
  · exact ⟨hl, haddr (by omega), hstrobes (by omega), h.dataFloats ho⟩
  · obtain ⟨_, hbus⟩ := h.driven.2.2 k hk (by omega)
    exact ⟨hl, h.dataFloats ho, hbus (by omega)⟩

theorem Good.phaseRow_released {s : State} (h : Good s) (ho : s.own = .released) :
    phase s ≠ .acquired ∧ PhaseRow s (phase s) := by
  have hdata := h.dataFloats ho
  by_cases hl : line s .busreq = .asserted
  · rcases h.phase_of_asserted ho hl with ⟨e, _⟩ | ⟨k, hk, h8, e⟩ | ⟨e, k, hk⟩ <;> rw [e]
    · refine ⟨by decide, hl, hdata, fun p hp h4 => ?_⟩
      obtain ⟨haddr, hstrobes, _⟩ := h.releasing ho p hp
      exact ⟨haddr (by omega), hstrobes h4⟩
    · exact ⟨by split <;> decide, h.phaseRow_take ho hl hk h8⟩
    · obtain ⟨haddr, hstrobes, _⟩ := h.withdrawing k hk
      exact ⟨by decide, hl, haddr, hstrobes, hdata⟩
  · obtain ⟨hreq, haddr, hstrobes⟩ := h.busIdle_of_not_asserted hl
    rcases phase_of_not_asserted ho hl with e | e <;> rw [e] <;>
      exact ⟨by decide, hreq, haddr, hstrobes, hdata⟩

theorem Good.phaseRow {s : State} (h : Good s) :
    (phase s = .acquired ↔ s.own = .acquired) ∧ PhaseRow s (phase s) := by
  cases ho : s.own with
  | acquired =>
    have e := phase_acquired ho
    rw [e]
    exact ⟨Iff.rfl.trans (by simp), h.busHeld ho⟩
  | released =>
    obtain ⟨hne, hrow⟩ := h.phaseRow_released ho
    exact ⟨by simp [hne], hrow⟩

/-- Settles O58: the target is off the bus while the controller drives a group, and no device answers while it drives
DATA; the rows follow from the position in `TAKE_BUS` or `RELEASE_BUS`. -/
theorem phasesAndContention : Obligations.PhasesAndContention := by
  intro s h
  obtain ⟨hphase, hrow⟩ := h.phaseRow
  refine ⟨fun q hq => h.no_contention hq, hphase, ?_⟩
  cases e : phase s <;> rw [e] at hrow <;> exact hrow

end Sys2Proof.Machine
end

section
/-! What one register access, or none, leaves of everything that the invariants of R30 look at. -/

namespace Sys2Proof.Machine

/-- A bit that one primitive sets, another clears, and no other access changes. -/
def tracked (o : Option Prim) (on off : Prim) (old : Bool) : Bool :=
  if o = some on then true else if o = some off then false else old

@[simp] theorem tracked_none (on off : Prim) (old : Bool) : tracked none on off old = old := by simp [tracked]

theorem tracked_other {o : Option Prim} {on off : Prim} (hon : o ≠ some on) (hoff : o ≠ some off) (old : Bool) :
    tracked o on off old = old := by simp [tracked, hon, hoff]

@[simp] theorem tracked_on (on off : Prim) (old : Bool) : tracked (some on) on off old = true := by simp [tracked]

theorem tracked_off {on off : Prim} (h : off ≠ on) (old : Bool) : tracked (some off) on off old = false := by
  simp [tracked, h]

/-- Every pin of a group is an output, or every one is an input (R19). -/
def groupAt (s : State) (g : Group) (output : Bool) : Prop :=
  match g with
  | .addr => s.dir.addrHi = allPins s.cfg output ∧ s.dir.addrLo = allPins s.cfg output
  | .data => s.dir.dataLo = allPins s.cfg output
  | .strobes => ∀ g ∈ strobes, isOutput s (s.cfg.pins.pin g) = output

/-- A latch as one access, or none, leaves it. CLKOUT has a primitive of its own. -/
def LatchesFollow (o : Option Prim) (s t : State) : Prop :=
  ∀ g, g ≠ .clkout → ∀ active, latchAt s g active → latchAt t g (tracked o (.assert g) (.deassert g) active)

/-- The directions of the groups as one access, or none, leaves them. -/
def GroupsFollow (o : Option Prim) (s t : State) : Prop :=
  ∀ g output, groupAt s g output → groupAt t g (tracked o (.drive g) (.float g) output)

/-- The bit of M1 in a register that the controller configures. -/
def iocBitOf (s : State) : IocField → Bool
  | .en => m1Bit s s.ioc.en
  | .dflt => m1Bit s s.ioc.dflt
  | .cmp => m1Bit s s.ioc.cmp

/-- The bits of M1 in the change interrupt's registers as one access, or none, leaves them. -/
def IocFollows (o : Option Prim) (s t : State) : Prop :=
  ∀ f, iocBitOf t f = tracked o (.iocConfig .m1 f true) (.iocConfig .m1 f false) (iocBitOf s f)

/-- Of all that the invariants look at, `t` is what the access `o`, or none, leaves of `s`: the registers, the target's side
and the events. The controller's flags and the sequencer are left out. -/
structure Accessed (o : Option Prim) (s t : State) : Prop where
  cfg : t.cfg = s.cfg
  ownsBus : t.target.ownsBus = s.target.ownsBus
  m1 : t.target.m1 = s.target.m1
  memory : s.target.mem.wf = true → t.target.mem.wf = true
  roles : pinRoles s → pinRoles t
  latches : LatchesFollow o s t
  groups : GroupsFollow o s t
  ioc : IocFollows o s t
  trace : ∀ g, Event.deassert g ∈ t.trace → Event.deassert g ∈ s.trace ∨ o = some (.deassert g)

/-! ### No access -/

theorem latchAt_congr {s t : State} (hcfg : t.cfg = s.cfg) (hout : t.out = s.out) (g : Signal) (active : Bool) :
    latchAt t g active ↔ latchAt s g active := by
  unfold latchAt
  rw [hcfg, hout]

theorem groupAt_congr {s t : State} (hcfg : t.cfg = s.cfg) (hdir : t.dir = s.dir) (g : Group) (output : Bool) :
    groupAt t g output ↔ groupAt s g output := by
  unfold groupAt isOutput
  rw [hcfg, hdir]

theorem pinRoles_congr {s t : State} (hcfg : t.cfg = s.cfg) (hdir : t.dir = s.dir) (h : pinRoles s) : pinRoles t := by
  unfold pinRoles isOutput
  rwa [hcfg, hdir]

theorem iocBitOf_congr {s t : State} (hcfg : t.cfg = s.cfg) (hen : t.ioc.en = s.ioc.en) (hdflt : t.ioc.dflt = s.ioc.dflt)
    (hcmp : t.ioc.cmp = s.ioc.cmp) (f : IocField) : iocBitOf t f = iocBitOf s f := by
  cases f <;> simp [iocBitOf, m1Bit, hcfg, hen, hdflt, hcmp]

/-- The registers that the invariants look at, the target's side and the strobes' events are the same. -/
theorem Accessed.of_registers_eq {s t : State} (hcfg : t.cfg = s.cfg) (hdir : t.dir = s.dir) (hout : t.out = s.out)
    (hen : t.ioc.en = s.ioc.en) (hdflt : t.ioc.dflt = s.ioc.dflt) (hcmp : t.ioc.cmp = s.ioc.cmp)
    (hbus : t.target.ownsBus = s.target.ownsBus) (hm1 : t.target.m1 = s.target.m1)
    (hmem : s.target.mem.wf = true → t.target.mem.wf = true)
    (htrace : ∀ g, Event.deassert g ∈ t.trace → Event.deassert g ∈ s.trace) : Accessed none s t where
  cfg := hcfg
  ownsBus := hbus
  m1 := hm1
  memory := hmem
  roles := pinRoles_congr hcfg hdir
  latches g _ active h := by rwa [tracked_none, latchAt_congr hcfg hout]
  groups g output h := by rwa [tracked_none, groupAt_congr hcfg hdir]
  ioc f := by rw [tracked_none, iocBitOf_congr hcfg hen hdflt hcmp]
  trace g h := .inl (htrace g h)

/-- What follows an access without touching the hardware or the trace leaves what the access left. -/
theorem Accessed.then_same {o : Option Prim} {s t u : State} (h : Accessed o s t) (hw : SameHardware t u)
    (htrace : u.trace = t.trace) : Accessed o s u where
  cfg := hw.cfg.trans h.cfg
  ownsBus := by rw [hw.target, h.ownsBus]
  m1 := by rw [hw.target, h.m1]
  memory := by rw [hw.target]; exact h.memory
  roles hs := pinRoles_congr hw.cfg hw.dir (h.roles hs)
  latches g hg active hs := (latchAt_congr hw.cfg hw.out g _).mpr (h.latches g hg active hs)
  groups g output hs := (groupAt_congr hw.cfg hw.dir g _).mpr (h.groups g output hs)
  ioc f := by rw [← h.ioc f, iocBitOf_congr hw.cfg (by rw [hw.ioc]) (by rw [hw.ioc]) (by rw [hw.ioc])]
  trace g hg := h.trace g (by rwa [htrace] at hg)

/-! ### The registers after a primitive -/

/-- The output latches after a primitive. -/
def latchesAfter (c : Params) (p : Prim) (r : Ports) : Ports :=
  match p with
  | .assert g => setPin r (c.pins.pin g) (assertedLevel c g)
  | .deassert g => setPin r (c.pins.pin g) (!assertedLevel c g)
  | .clkOut l => setPin r c.pins.clkout l
  | .latch q v => r.set q v
  | .drive _ | .float _ | .samplePort _ | .sample _ | .iocConfig _ _ _ | .iocFlag _ => r

/-- The directions after a group has been driven or floated. -/
def groupDirections (c : Params) (output : Bool) (r : Ports) : Group → Ports
  | .addr => (addrPorts c).foldl (fun r p => r.set p (allPins c output)) r
  | .data => r.set .dataLo (allPins c output)
  | .strobes => setSignals c (dirBit c output) strobes r

/-- The directions after a primitive. -/
def directionsAfter (c : Params) (p : Prim) (r : Ports) : Ports :=
  match p with
  | .drive g => groupDirections c true r g
  | .float g => groupDirections c false r g
  | .assert _ | .deassert _ | .clkOut _ | .latch _ _ | .samplePort _ | .sample _ | .iocConfig _ _ _ | .iocFlag _ => r

/-- Some whole-port directions, one after another. -/
theorem applyWrites_dirPorts (o : Bool) (ps : List Port) (s : State) :
    (applyWrites s (ps.map fun p => .dirPort p o)).dir = ps.foldl (fun r p => r.set p (allPins s.cfg o)) s.dir ∧
      (applyWrites s (ps.map fun p => .dirPort p o)).out = s.out ∧
      (applyWrites s (ps.map fun p => .dirPort p o)).ioc = s.ioc := by
  induction ps generalizing s with
  | nil => exact ⟨rfl, rfl, rfl⟩
  | cons p ps ih =>
    obtain ⟨hdir, hout, hioc⟩ := ih (applyWrite s (.dirPort p o))
    rw [applyWrite_dir, (applyWrite_kept s _).cfg] at hdir
    exact ⟨hdir, hout.trans (applyWrite_out s _), hioc.trans (applyWrite_ioc s _)⟩

theorem applyWrites_group (g : Group) (o : Bool) (s : State) :
    (applyWrites s (groupWrites s.cfg g o)).dir = groupDirections s.cfg o s.dir g ∧
      (applyWrites s (groupWrites s.cfg g o)).out = s.out ∧ (applyWrites s (groupWrites s.cfg g o)).ioc = s.ioc := by
  cases g with
  | addr => exact applyWrites_dirPorts o (addrPorts s.cfg) s
  | data | strobes => exact ⟨applyWrite_dir s _, applyWrite_out s _, applyWrite_ioc s _⟩

theorem perform_out_eq (p : Prim) (s : State) : (perform p s).out = latchesAfter s.cfg p s.out := by
  cases p with
  | drive g | float g =>
    obtain ⟨_, hout, _⟩ := applyWrites_group g _ s
    exact hout
  | assert | deassert | latch | clkOut => exact applyWrite_out s _
  | iocConfig _ f => cases f <;> exact applyWrite_out s _
  | samplePort | sample | iocFlag => rfl

theorem perform_dir_eq (p : Prim) (s : State) : (perform p s).dir = directionsAfter s.cfg p s.dir := by
  cases p with
  | drive g | float g =>
    obtain ⟨hdir, _, _⟩ := applyWrites_group g _ s
    exact hdir
  | assert | deassert | latch | clkOut => exact applyWrite_dir s _
  | iocConfig _ f => cases f <;> exact applyWrite_dir s _
  | samplePort | sample | iocFlag => rfl

theorem perform_iocConfig_ioc (g : Signal) (f : IocField) (v : Bool) (s : State) :
    (perform (.iocConfig g f v) s).ioc = (storeWrite (.iocBit f (s.cfg.pins.pin g).bit v) s).ioc := applyWrite_ioc s _

/-- A primitive that is no configuration of an interrupt leaves the configuration. -/
theorem perform_ioc_other {p : Prim} (h : ∀ g f v, p ≠ .iocConfig g f v) (s : State) :
    (perform p s).ioc.en = s.ioc.en ∧ (perform p s).ioc.dflt = s.ioc.dflt ∧ (perform p s).ioc.cmp = s.ioc.cmp := by
  have key : (perform p s).ioc = s.ioc ∨ ∃ q, (perform p s).ioc = (touchPort q s).ioc := by
    cases p with
    | drive g | float g =>
      obtain ⟨_, _, hioc⟩ := applyWrites_group g _ s
      exact .inl hioc
    | assert | deassert | latch | clkOut => exact .inl (applyWrite_ioc s _)
    | iocConfig g f v => exact absurd rfl (h g f v)
    | samplePort q => exact .inr ⟨q, rfl⟩
    | sample g => exact .inr ⟨(s.cfg.pins.pin g).port, rfl⟩
    | iocFlag => exact .inl rfl
  rcases key with e | ⟨q, e⟩ <;> rw [e]
  · exact ⟨rfl, rfl, rfl⟩
  · rw [touchPort_ioc]
    split <;> exact ⟨rfl, rfl, rfl⟩

/-! ### What a primitive leaves -/

/-- A primitive sets and clears the latch of its own signal, and leaves every other. -/
theorem perform_latches {s : State} (hc : s.cfg.pins.WellFormed) {p : Prim} (hp : Programmed p) :
    LatchesFollow (some p) s (perform p s) := by
  intro g hg active h
  unfold latchAt at h ⊢
  rw [perform_out_eq, (perform_kept p s).cfg]
  cases p with
  | assert k =>
    by_cases e : g = k
    · subst e
      rw [tracked_on]
      exact getPin_setPin_same _ _ _
    · rw [tracked_other (by simp [Ne.symm e]) (by simp), ← h]
      exact getPin_setPin_other _ _ (PinMap.WellFormed.pin_ne hc e)
  | deassert k =>
    by_cases e : g = k
    · subst e
      rw [tracked_off (by simp)]
      exact getPin_setPin_same _ _ _
    · rw [tracked_other (by simp) (by simp [Ne.symm e]), ← h]
      exact getPin_setPin_other _ _ (PinMap.WellFormed.pin_ne hc e)
  | clkOut l =>
    rw [tracked_other (by simp) (by simp), ← h]
    exact getPin_setPin_other _ _ (PinMap.WellFormed.pin_ne hc hg)
  | latch q v =>
    rw [tracked_other (by simp) (by simp), ← h]
    exact getPin_set_busPort hc hp _ _ g
  | drive | float | samplePort | sample | iocConfig | iocFlag =>
    rwa [tracked_other (by simp) (by simp)]

/-- Driving or floating a group sets the direction of all its pins (R19). -/
theorem groupAt_groupDirections {s t : State} (hcfg : t.cfg = s.cfg) {g : Group} {o : Bool}
    (hdir : t.dir = groupDirections s.cfg o s.dir g) : groupAt t g o := by
  unfold groupAt
  cases g with
  | addr =>
    simp only [hcfg, hdir, groupDirections, addrPorts]
    cases s.cfg.addrPortOrder <;> exact ⟨rfl, rfl⟩
  | data =>
    simp only [hcfg, hdir, groupDirections]
    rfl
  | strobes =>
    intro g hg
    unfold isOutput
    rw [hcfg, hdir]
    unfold groupDirections
    rw [getPin_setSignals_mem hg, dirBit_bne]

theorem get_setSignals_busPort {c : Params} (hc : c.pins.WellFormed) {p : Port} (hp : BusPort p) (l : Bool)
    (gs : List Signal) (r : Ports) : (setSignals c l gs r).get p = r.get p := by
  induction gs generalizing r with
  | nil => rfl
  | cons g gs ih => exact (ih _).trans (get_setPin_other _ _ fun e => not_busPort hc g (by rwa [← e]))

/-- Driving or floating ADDR or DATA leaves the signals' pins (R13). -/
theorem getPin_groupDirections {c : Params} (hc : c.pins.WellFormed) {g : Group} (hg : g ≠ .strobes) (o : Bool)
    (r : Ports) (k : Signal) : getPin (groupDirections c o r g) (c.pins.pin k) = getPin r (c.pins.pin k) := by
  cases g with
  | addr =>
    unfold groupDirections addrPorts
    have hhi : BusPort .addrHi := .inl rfl
    have hlo : BusPort .addrLo := .inr (.inl rfl)
    cases c.addrPortOrder
    · exact (getPin_set_busPort hc hlo _ _ k).trans (getPin_set_busPort hc hhi _ _ k)
    · exact (getPin_set_busPort hc hhi _ _ k).trans (getPin_set_busPort hc hlo _ _ k)
  | data => exact getPin_set_busPort hc (.inr (.inr rfl)) _ _ k
  | strobes => exact absurd rfl hg

/-- Driving or floating a group leaves the other groups (R13, R19). -/
theorem groupAt_groupDirections_other {s t : State} (hc : s.cfg.pins.WellFormed) (hcfg : t.cfg = s.cfg) {g k : Group}
    {o o' : Bool} (hdir : t.dir = groupDirections s.cfg o s.dir g) (hne : k ≠ g) (h : groupAt s k o') :
    groupAt t k o' := by
  unfold groupAt isOutput at *
  rw [hcfg, hdir]
  by_cases hg : g = .strobes
  · subst hg
    have hport {p : Port} (hp : BusPort p) := get_setSignals_busPort hc hp (dirBit s.cfg o) strobes s.dir
    cases k with
    | addr => exact ⟨(hport (.inl rfl)).trans h.1, (hport (.inr (.inl rfl))).trans h.2⟩
    | data => exact (hport (.inr (.inr rfl))).trans h
    | strobes => exact absurd rfl hne
  · cases k with
    | strobes => exact fun x hx => by rw [getPin_groupDirections hc hg]; exact h x hx
    | addr =>
      cases g with
      | data => exact h
      | addr | strobes => contradiction
    | data =>
      cases g with
      | addr =>
        unfold groupDirections addrPorts
        cases s.cfg.addrPortOrder <;> exact h
      | data | strobes => contradiction

theorem perform_groups {s : State} (hc : s.cfg.pins.WellFormed) (p : Prim) : GroupsFollow (some p) s (perform p s) := by
  intro g output h
  have hcfg := (perform_kept p s).cfg
  have hdir := perform_dir_eq p s
  cases p with
  | drive k =>
    by_cases e : g = k
    · subst e
      rw [tracked_on]
      exact groupAt_groupDirections hcfg hdir
    · rw [tracked_other (by simp [Ne.symm e]) (by simp)]
      exact groupAt_groupDirections_other hc hcfg hdir e h
  | float k =>
    by_cases e : g = k
    · subst e
      rw [tracked_off (by simp)]
      exact groupAt_groupDirections hcfg hdir
    · rw [tracked_other (by simp) (by simp [Ne.symm e])]
      exact groupAt_groupDirections_other hc hcfg hdir e h
  | assert | deassert | latch | clkOut | samplePort | sample | iocConfig | iocFlag =>
    rw [tracked_other (by simp) (by simp)]
    exact (groupAt_congr hcfg hdir g output).mpr h

/-- The configuration of one bit of M1 writes that bit. -/
theorem iocBitOf_iocConfig (f k : IocField) (v : Bool) (s : State) :
    iocBitOf (perform (.iocConfig .m1 k v) s) f = if f = k then v else iocBitOf s f := by
  have hioc := perform_iocConfig_ioc .m1 k v s
  have hcfg := (perform_kept (.iocConfig .m1 k v) s).cfg
  cases k <;> cases f <;> simp [-perform_ioc, iocBitOf, m1Bit, hioc, hcfg, storeWrite, PinMap.pin]

theorem perform_ioc_follows {p : Prim} (hp : Programmed p) (s : State) : IocFollows (some p) s (perform p s) := by
  intro f
  by_cases h : ∀ g k v, p ≠ .iocConfig g k v
  · rw [tracked_other (by simp [h]) (by simp [h])]
    obtain ⟨hen, hdflt, hcmp⟩ := perform_ioc_other h s
    exact iocBitOf_congr (perform_kept p s).cfg hen hdflt hcmp f
  · push Not at h
    obtain ⟨g, k, v, rfl⟩ := h
    cases hp
    rw [iocBitOf_iocConfig]
    by_cases e : f = k
    · subst e
      cases v <;> simp [tracked]
    · rw [if_neg e, tracked_other (by simp [Ne.symm e]) (by simp [Ne.symm e])]

/-- The event of a primitive says that a strobe is de-asserted only where the primitive de-asserts it. -/
theorem eventOf_eq_deassert {p : Prim} {s : State} {g : Signal} (h : eventOf p s = .deassert g) : p = .deassert g := by
  cases p <;> simp [eventOf] at h ⊢
  exact h

/-- WHAT A PRIMITIVE LEAVES of everything that the invariants look at. -/
theorem perform_accessed {s : State} (hc : s.cfg.pins.WellFormed) {p : Prim} (hp : Programmed p) :
    Accessed (some p) s (perform p s) where
  cfg := (perform_kept p s).cfg
  ownsBus := (perform_kept p s).ownsBus
  m1 := (perform_kept p s).m1
  memory := (perform_kept p s).memory
  roles hs := (rolesFixed_law.perform hp s).pinRoles hc hs
  latches := perform_latches hc hp
  groups := perform_groups hc p
  ioc := perform_ioc_follows hp s
  trace g hg := by
    rw [perform_trace, List.mem_append, List.mem_singleton] at hg
    rcases hg with hg | hg
    · exact .inl hg
    · exact .inr (by rw [eventOf_eq_deassert hg.symm])

end Sys2Proof.Machine
end

section
/-! The invariants of the bus (R22, R30) as a table over a position and the levels that the controller and the target hold
there, and the table's rows as the model's invariants. -/

namespace Sys2Proof.Machine

/-! ### The table -/

/-- The row of the positions: `positionOk`. -/
abbrev PlaceRow (own : BusOwnership) (q : Seq) : Prop :=
  ((writeAt q).isSome = true → own = .acquired) ∧ ((readAt q).isSome = true → own = .acquired) ∧
    (∀ k ∈ takeAt q, k = 9 → own = .acquired) ∧ (∀ k ∈ withdrawAt q, k ≤ 1 ∧ own = .released) ∧
    (∀ k ∈ writeAt q, k ≤ 9) ∧ (∀ k ∈ readAt q, k ≤ 7) ∧ ∀ p ∈ releaseAt q, 1 ≤ p.1 → own = .released

/-- The row of `busDriven`: ADDR and STROBES are driven, BUSREQ is asserted, the target owns the bus. -/
abbrev DrivenRow (own : BusOwnership) (q : Seq) (addr strobe busreq target : Bool) : Prop :=
  (own = .acquired → addr = true ∧ strobe = true ∧ busreq = true ∧ target = false) ∧
    (addr = true ∨ strobe = true → busreq = true ∧ target = false) ∧
    ∀ k ∈ takeAt q, 1 ≤ k → busreq = true ∧ (2 ≤ k → target = false)

/-- The row of `busOutside`. -/
abbrev OutsideRow (own : BusOwnership) (q : Seq) (addr strobe busreq : Bool) : Prop :=
  own = .released → takeAt q = none → withdrawAt q = none → releaseAt q = none →
    addr = false ∧ strobe = false ∧ busreq = false

/-- The row of `busTaking`. -/
abbrev TakingRow (own : BusOwnership) (q : Seq) (addr strobe busreq : Bool) : Prop :=
  own = .released → ∀ k ∈ takeAt q,
    (k ≤ 2 → addr = false) ∧ (k ≤ 3 → strobe = false) ∧ (k = 0 → busreq = false) ∧ (3 ≤ k → addr = true) ∧
      (4 ≤ k → strobe = true)

/-- The row of `busWithdrawing`. -/
abbrev WithdrawingRow (q : Seq) (addr strobe busreq : Bool) : Prop :=
  ∀ k ∈ withdrawAt q, addr = false ∧ strobe = false ∧ busreq = decide (k = 0)

/-- The row of `busReleasing`. -/
abbrev ReleasingRow (own : BusOwnership) (q : Seq) (addr strobe busreq : Bool) : Prop :=
  own = .released → ∀ p ∈ releaseAt q,
    (3 ≤ p.1 → addr = false) ∧ (4 ≤ p.1 → strobe = false) ∧ (p.2 < p.1 → busreq = false) ∧
      (p.1 = 0 → addr = false ∧ strobe = false ∧ busreq = false)

/-- The rows of the bus, all together. -/
structure BusRow (own : BusOwnership) (q : Seq) (addr strobe busreq target : Bool) : Prop where
  place : PlaceRow own q
  driven : DrivenRow own q addr strobe busreq target
  outside : OutsideRow own q addr strobe busreq
  taking : TakingRow own q addr strobe busreq
  withdrawing : WithdrawingRow q addr strobe busreq
  releasing : ReleasingRow own q addr strobe busreq

/-- The row of one strobe's latch while the strobes are driven (I-STROBE): it stands as the position asks, but for the
launch window of R226. -/
abbrev WindowRow (own : BusOwnership) (q : Seq) (g : Signal) (strobe active : Bool) : Prop :=
  strobe = true → if own = .released ∧ (takeAt q).isSome = true then
    ∀ k ∈ takeAt q, forcedBefore k g = true → active = false else active = activeStrobe q g

/-- The row of `armSafe`: the flag `arm`, whether the clock mode is SingleStep, and the bits of M1 in `IOC_CMP` and
`IOC_EN`. -/
abbrev ArmRow (arm : StepArm) (single : Bool) (q : Seq) (cmp en : Bool) : Prop :=
  (arm = .armed ↔ single = true) ∧ (arm = .armed ∨ comparing q = true → cmp = true) ∧
    en = (enabling q || (arm == .armed && !disabling q)) ∧ (switching q = true → arm = .disarmed)

/-! ### The table's rows are the invariants -/

theorem allPins_ne (c : Params) : allPins c true ≠ allPins c false := by
  unfold allPins
  cases c.dirInputBit <;> decide

/-- A group has one direction. -/
theorem groupAt_iff {s : State} {g : Group} {o : Bool} (h : groupAt s g o) (o' : Bool) : groupAt s g o' ↔ o = o' := by
  refine ⟨fun h' => ?_, fun e => e ▸ h⟩
  have key : allPins s.cfg o = allPins s.cfg o' → o = o' := by
    have hne := allPins_ne s.cfg
    cases o <;> cases o' <;> simp [hne, hne.symm]
  cases g with
  | addr => exact key (h.1.symm.trans h'.1)
  | data => exact key (h.symm.trans h')
  | strobes => exact (h .mreq (by decide)).symm.trans (h' .mreq (by decide))

/-- A driven line is what its latch says (R15). -/
theorem line_of_latch {s : State} {g : Signal} {active : Bool} (hout : isOutput s (s.cfg.pins.pin g) = true)
    (h : latchAt s g active) : line s g = if active then .asserted else .deasserted := by
  unfold line
  rw [if_pos hout, h]
  cases active <;> simp [levelOf]

/-- Every latch is at one of the two levels. -/
theorem exists_latchAt (s : State) (g : Signal) : ∃ active, latchAt s g active := by
  unfold latchAt levelOf
  cases getPin s.out (s.cfg.pins.pin g) <;> cases assertedLevel s.cfg g
  · exact ⟨true, rfl⟩
  · exact ⟨false, rfl⟩
  · exact ⟨false, rfl⟩
  · exact ⟨true, rfl⟩

/-- The levels of a state at which the table of the bus is read. -/
structure BusLevels (s : State) (addr strobe busreq : Bool) : Prop where
  addr : groupAt s .addr addr
  strobe : groupAt s .strobes strobe
  busreq : latchAt s .busreq busreq
  output : isOutput s (s.cfg.pins.pin .busreq) = true

section
variable {s : State} {addr strobe busreq : Bool}

theorem BusLevels.addr_iff (h : BusLevels s addr strobe busreq) :
    (addrDriven s ↔ addr = true) ∧ (addrFloats s ↔ addr = false) := ⟨groupAt_iff h.addr true, groupAt_iff h.addr false⟩

theorem BusLevels.strobe_iff (h : BusLevels s addr strobe busreq) :
    (strobesDriven s ↔ strobe = true) ∧ (strobesFloat s ↔ strobe = false) :=
  ⟨groupAt_iff h.strobe true, groupAt_iff h.strobe false⟩

theorem BusLevels.busreq_iff (h : BusLevels s addr strobe busreq) :
    (line s .busreq = .asserted ↔ busreq = true) ∧ (line s .busreq = .deasserted ↔ busreq = false) := by
  rw [line_of_latch h.output h.busreq]
  cases busreq <;> decide

/-- The bus clauses of the invariant at a state's levels. -/
theorem BusLevels.busRow (h : BusLevels s addr strobe busreq) (hs : Good s) :
    BusRow s.own s.seq addr strobe busreq s.target.ownsBus := by
  obtain ⟨haD, haF⟩ := h.addr_iff
  obtain ⟨hsD, hsF⟩ := h.strobe_iff
  obtain ⟨hrA, hrD⟩ := h.busreq_iff
  constructor
  · exact hs.position
  · obtain ⟨hacq, hgrant, htake⟩ := hs.driven
    rw [haD, hsD, hrA] at hacq
    rw [haF, hsF, hrA] at hgrant
    simp only [hrA] at htake
    exact ⟨hacq, fun hd => hgrant (by simpa using hd.imp_right .inl), htake⟩
  · have h' := hs.outside
    unfold busOutside at h'
    rwa [haF, hsF, hrD] at h'
  · have h' := hs.taking
    unfold busTaking at h'
    simpa only [haF, hsF, hrD, haD, hsD] using h'
  · intro k hk
    obtain ⟨ha, hst, hr⟩ := hs.withdrawing k hk
    refine ⟨haF.mp ha, hsF.mp hst, ?_⟩
    split at hr
    · next e => simpa [e] using hrA.mp hr
    · next e => simpa [e] using hrD.mp hr
  · have h' := hs.releasing
    unfold busReleasing at h'
    simpa only [haF, hsF, hrD] using h'

/-- The bus clauses of the invariant but for the groups' wholeness and the strobes' latches. -/
structure BusSafe (s : State) : Prop where
  position : positionOk s
  driven : busDriven s
  outside : busOutside s
  taking : busTaking s
  withdrawing : busWithdrawing s
  releasing : busReleasing s

/-- The table's rows give the bus clauses, where DATA is driven in a write cycle alone. -/
theorem BusLevels.busSafe (h : BusLevels s addr strobe busreq) (hdata : ¬ dataFloats s → s.own = .acquired)
    (hrow : BusRow s.own s.seq addr strobe busreq s.target.ownsBus) : BusSafe s := by
  obtain ⟨haD, haF⟩ := h.addr_iff
  obtain ⟨hsD, hsF⟩ := h.strobe_iff
  obtain ⟨hrA, hrD⟩ := h.busreq_iff
  obtain ⟨hplace, ⟨hacq, hgrant, htake⟩, houtside, htaking, hwithdrawing, hreleasing⟩ := hrow
  constructor
  · exact hplace
  · refine ⟨?_, ?_, ?_⟩
    · rwa [haD, hsD, hrA]
    · rw [haF, hsF, hrA]
      rintro (ha | hst | hd)
      · exact hgrant (.inl (by simpa using ha))
      · exact hgrant (.inr (by simpa using hst))
      · obtain ⟨_, _, hr, hbus⟩ := hacq (hdata hd)
        exact ⟨hr, hbus⟩
    · simpa only [hrA] using htake
  · unfold busOutside
    rwa [haF, hsF, hrD]
  · unfold busTaking
    simpa only [haF, hsF, hrD, haD, hsD] using htaking
  · intro k hk
    obtain ⟨ha, hst, hr⟩ := hwithdrawing k hk
    refine ⟨haF.mpr ha, hsF.mpr hst, ?_⟩
    split
    · next e => exact hrA.mpr (by simpa [e] using hr)
    · next e => exact hrD.mpr (by simpa [e] using hr)
  · unfold busReleasing
    simpa only [haF, hsF, hrD] using hreleasing

theorem latchAt_iff {g : Signal} {active : Bool} (h : latchAt s g active) (active' : Bool) :
    latchAt s g active' ↔ active = active' := by
  refine ⟨fun h' => ?_, fun e => e ▸ h⟩
  have e : levelOf s.cfg g active = levelOf s.cfg g active' := h.symm.trans h'
  revert e
  cases active <;> cases active' <;> simp [levelOf]

/-- The second clause of `strobeWindow`, strobe by strobe. -/
theorem BusLevels.window_iff (h : BusLevels s addr strobe busreq) :
    (strobesDriven s →
      if s.own = .released ∧ (takeAt s.seq).isSome = true then
        ∀ k ∈ takeAt s.seq, ∀ g ∈ strobes, forcedBefore k g = true → latchAt s g false
      else Machine.strobesAsPlaced s) ↔
      ∀ g ∈ strobes, ∀ active, latchAt s g active → WindowRow s.own s.seq g strobe active := by
  obtain ⟨hsD, _⟩ := h.strobe_iff
  rw [hsD]
  unfold WindowRow
  split
  · refine ⟨fun hw g hg active ha hst k hk hf => ?_, fun hw hst k hk g hg hf => ?_⟩
    · exact (latchAt_iff ha false).mp (hw hst k hk g hg hf)
    · obtain ⟨active, ha⟩ := exists_latchAt s g
      exact (latchAt_iff ha false).mpr (hw g hg active ha hst k hk hf)
  · refine ⟨fun hw g hg active ha hst => (latchAt_iff ha _).mp (hw hst g hg), fun hw hst g hg => ?_⟩
    obtain ⟨active, ha⟩ := exists_latchAt s g
    exact (latchAt_iff ha _).mpr (hw g hg active ha hst)

end

theorem Good.exists_busLevels {s : State} (h : Good s) : ∃ addr strobe busreq, BusLevels s addr strobe busreq := by
  obtain ⟨haddr, hstrobes, _⟩ := h.floating
  obtain ⟨busreq, hreq⟩ := exists_latchAt s .busreq
  have hgroup {g : Group} (hg : groupAt s g true ∨ groupAt s g false) : ∃ o, groupAt s g o :=
    hg.elim (fun x => ⟨true, x⟩) fun x => ⟨false, x⟩
  obtain ⟨a, ha⟩ := hgroup (g := .addr) haddr
  obtain ⟨st, hst⟩ := hgroup (g := .strobes) hstrobes
  exact ⟨a, st, busreq, ha, hst, hreq, h.busreq_output⟩

theorem groupAt_data_iff (s : State) :
    groupAt s .data (driveData s.seq) ↔ if driveData s.seq then dataDriven s else dataFloats s := by
  cases driveData s.seq <;> exact Iff.rfl

/-- The row of the single-step controller at a state's bits. -/
theorem armSafe_iff (s : State) :
    armSafe s ↔ ArmRow s.arm (decide (s.clockMode = .singleStep)) s.seq (iocBitOf s .cmp) (iocBitOf s .en) := by
  unfold armSafe ArmRow
  rw [decide_eq_true_iff]
  rfl

/-! ### From one state with the invariant to the next -/

/-- The strobes' window, DATA and RESET follow an access, or none, from one position to another: what the positions ask for
changes as the access changes it. -/
structure Follows (o : Option Prim) (q q' : Seq) : Prop where
  strobe : ∀ g ∈ strobes, activeStrobe q' g = tracked o (.assert g) (.deassert g) (activeStrobe q g)
  data : driveData q' = tracked o (.drive .data) (.float .data) (driveData q)
  pulse : pulseAt q' = tracked o (.assert .reset) (.deassert .reset) (pulseAt q)

/-- The bus's rows lead from one position to another along an access, or none. -/
structure Leads (o : Option Prim) (own own' : BusOwnership) (q q' : Seq) (target : Bool) : Prop where
  follows : Follows o q q'
  bus : ∀ addr strobe busreq, BusRow own q addr strobe busreq target →
    BusRow own' q' (tracked o (.drive .addr) (.float .addr) addr) (tracked o (.drive .strobes) (.float .strobes) strobe)
        (tracked o (.assert .busreq) (.deassert .busreq) busreq) target ∧
      ∀ g ∈ strobes, ∀ active, WindowRow own q g strobe active →
        WindowRow own' q' g (tracked o (.drive .strobes) (.float .strobes) strobe)
          (tracked o (.assert g) (.deassert g) active)

theorem strobe_ne_clkout {g : Signal} (hg : g ∈ strobes) : g ≠ .clkout := by
  rintro rfl
  revert hg
  decide

section
variable {o : Option Prim} {s t : State}

theorem Accessed.placed (ha : Accessed o s t) (hf : Follows o s.seq t.seq) (hp : strobesAsPlaced s) :
    strobesAsPlaced t := by
  intro g hg
  rw [hf.strobe g hg]
  exact ha.latches g (strobe_ne_clkout hg) _ (hp g hg)

/-- A strobe that an event has de-asserted stands as the position asks. -/
theorem Accessed.deasserted (ha : Accessed o s t) (hf : Follows o s.seq t.seq) {g : Signal} (hg : g ∈ strobes)
    (hs : Event.deassert g ∈ s.trace → latchAt s g (activeStrobe s.seq g)) (ht : Event.deassert g ∈ t.trace) :
    latchAt t g (activeStrobe t.seq g) := by
  rw [hf.strobe g hg]
  rcases ha.trace g ht with h | rfl
  · exact ha.latches g (strobe_ne_clkout hg) _ (hs h)
  · obtain ⟨active, h⟩ := exists_latchAt s g
    have h' := ha.latches g (strobe_ne_clkout hg) active h
    rwa [tracked_off (by simp)] at h' ⊢

theorem Accessed.busLevels (ha : Accessed o s t) (hr : pinRoles s) {addr strobe busreq : Bool}
    (h : BusLevels s addr strobe busreq) :
    BusLevels t (tracked o (.drive .addr) (.float .addr) addr) (tracked o (.drive .strobes) (.float .strobes) strobe)
      (tracked o (.assert .busreq) (.deassert .busreq) busreq) where
  addr := ha.groups .addr addr h.addr
  strobe := ha.groups .strobes strobe h.strobe
  busreq := ha.latches .busreq (by decide) busreq h.busreq
  output := (ha.roles hr).1 .busreq (by decide)

/-- The strobes' window after an access, or none. -/
theorem Accessed.strobeWindow (ha : Accessed o s t) (hs : Good s) {addr strobe busreq : Bool}
    (hl : BusLevels s addr strobe busreq) (hlead : Leads o s.own t.own s.seq t.seq s.target.ownsBus) :
    strobeWindow t := by
  obtain ⟨hevents, hwindow⟩ := hs.window
  obtain ⟨_, hrows⟩ := hlead.bus _ _ _ (hl.busRow hs)
  refine ⟨fun g hg ht => ha.deasserted hlead.follows hg (hevents g hg) ht, ?_⟩
  rw [(ha.busLevels hs.roles hl).window_iff]
  intro g hg active' ht
  obtain ⟨active, h⟩ := exists_latchAt s g
  rw [← (latchAt_iff (ha.latches g (strobe_ne_clkout hg) active h) active').mp ht]
  exact hrows g hg active (hl.window_iff.mp hwindow g hg active h)

theorem Accessed.targetHeld (ha : Accessed o s t) (hs : Good s) (hf : Follows o s.seq t.seq) : targetHeld t := by
  obtain ⟨hm1, hreset⟩ := hs.target
  have hout : isOutput s (s.cfg.pins.pin .reset) = true := hs.roles.1 .reset (by decide)
  have hlatch : latchAt s .reset (pulseAt s.seq) := by
    obtain ⟨active, h⟩ := exists_latchAt s .reset
    rw [line_of_latch hout h] at hreset
    rw [latchAt_iff h]
    revert hreset
    cases active <;> cases pulseAt s.seq <;> decide
  refine ⟨by rw [ha.ownsBus, ha.m1]; exact hm1, ?_⟩
  rw [line_of_latch ((ha.roles hs.roles).1 .reset (by decide)) (ha.latches .reset (by decide) _ hlatch), hf.pulse]

/-- THE INVARIANT ALONG AN ACCESS, or along none: where the positions before and after follow it and the rows of the clock
and of the single-step controller stand, the invariant stands. -/
theorem Good.along (hs : Good s) (ha : Accessed o s t) (hfault : t.fault = none) (halive : t.killed = false)
    (hlead : Leads o s.own t.own s.seq t.seq s.target.ownsBus) (hclock : clockSafe t) (harm : armSafe t) :
    Good t ∧ (Machine.strobesAsPlaced s → Machine.strobesAsPlaced t) := by
  refine ⟨?_, ha.placed hlead.follows⟩
  obtain ⟨addr, strobe, busreq, hl⟩ := hs.exists_busLevels
  have hl' := ha.busLevels hs.roles hl
  obtain ⟨hrow, _⟩ := hlead.bus _ _ _ (hl.busRow hs)
  obtain ⟨_, _, hdata⟩ := hs.floating
  have hdata' := ha.groups .data _ ((groupAt_data_iff s).mpr hdata)
  rw [← hlead.follows.data] at hdata'
  have hdriven : ¬ Machine.dataFloats t → t.own = .acquired := by
    intro hd
    have hdrive : driveData t.seq = true := by
      by_contra hn
      rw [Bool.not_eq_true] at hn
      rw [hn] at hdata'
      exact hd hdata'
    unfold driveData at hdrive
    split at hdrive
    · next k hk => exact hrow.place.1 (by simp [hk])
    · cases hdrive
  rw [← ha.ownsBus] at hrow
  have hbus := hl'.busSafe hdriven hrow
  have hwhole {b : Bool} {P Q : Prop} (hP : P ↔ b = true) (hQ : Q ↔ b = false) : P ∨ Q := by
    cases b
    · exact .inr (hQ.mpr rfl)
    · exact .inl (hP.mpr rfl)
  exact {
    params := by rw [ha.cfg]; exact hs.params
    noFault := hfault
    alive := halive
    memory := ha.memory hs.memory
    roles := ha.roles hs.roles
    position := hbus.position
    driven := hbus.driven
    floating := ⟨hwhole hl'.addr_iff.1 hl'.addr_iff.2, hwhole hl'.strobe_iff.1 hl'.strobe_iff.2,
      (groupAt_data_iff t).mp hdata'⟩
    outside := hbus.outside
    taking := hbus.taking
    withdrawing := hbus.withdrawing
    releasing := hbus.releasing
    window := ha.strobeWindow hs hl hlead
    target := ha.targetHeld hs hlead.follows
    clock := hclock
    arming := harm }

end

end Sys2Proof.Machine
end

section
/-! The programs keep to the table: for every line of every program, the rows at its position lead to those at the next. The
table is finite, so each line is evaluated. -/

namespace Sys2Proof.Machine

/-! ### The table, evaluated -/

def owners : List BusOwnership := [.acquired, .released]

def bits : List Bool := [true, false]

theorem all_owners {f : BusOwnership → Bool} (h : owners.all f = true) (own : BusOwnership) : f own = true :=
  List.all_eq_true.mp h own (by cases own <;> decide)

theorem all_bits {f : Bool → Bool} (h : bits.all f = true) (b : Bool) : f b = true :=
  List.all_eq_true.mp h b (by cases b <;> decide)

/-- `BusRow`, evaluated. -/
def busRow (own : BusOwnership) (q : Seq) (addr strobe busreq target : Bool) : Bool :=
  decide (PlaceRow own q) && decide (DrivenRow own q addr strobe busreq target) &&
    decide (OutsideRow own q addr strobe busreq) && decide (TakingRow own q addr strobe busreq) &&
    decide (WithdrawingRow q addr strobe busreq) && decide (ReleasingRow own q addr strobe busreq)

theorem busRow_iff {own : BusOwnership} {q : Seq} {addr strobe busreq target : Bool} :
    busRow own q addr strobe busreq target = true ↔ BusRow own q addr strobe busreq target := by
  simp only [busRow, Bool.and_eq_true, decide_eq_true_eq]
  exact ⟨fun ⟨⟨⟨⟨⟨h1, h2⟩, h3⟩, h4⟩, h5⟩, h6⟩ => ⟨h1, h2, h3, h4, h5, h6⟩,
    fun ⟨h1, h2, h3, h4, h5, h6⟩ => ⟨⟨⟨⟨⟨h1, h2⟩, h3⟩, h4⟩, h5⟩, h6⟩⟩

/-- `Follows`, evaluated. -/
def follows (o : Option Prim) (q q' : Seq) : Bool :=
  (strobes.all fun g => activeStrobe q' g == tracked o (.assert g) (.deassert g) (activeStrobe q g)) &&
    driveData q' == tracked o (.drive .data) (.float .data) (driveData q) &&
    pulseAt q' == tracked o (.assert .reset) (.deassert .reset) (pulseAt q)

/-- `Leads`, evaluated. -/
def leads (o : Option Prim) (own own' : BusOwnership) (q q' : Seq) (target : Bool) : Bool :=
  follows o q q' && bits.all fun addr => bits.all fun strobe => bits.all fun busreq =>
    !busRow own q addr strobe busreq target ||
      (busRow own' q' (tracked o (.drive .addr) (.float .addr) addr)
          (tracked o (.drive .strobes) (.float .strobes) strobe) (tracked o (.assert .busreq) (.deassert .busreq) busreq)
          target &&
        strobes.all fun g => bits.all fun active => !decide (WindowRow own q g strobe active) ||
          decide (WindowRow own' q' g (tracked o (.drive .strobes) (.float .strobes) strobe)
            (tracked o (.assert g) (.deassert g) active)))

theorem leads_sound {o : Option Prim} {own own' : BusOwnership} {q q' : Seq} {target : Bool}
    (h : leads o own own' q q' target = true) : Leads o own own' q q' target := by
  simp only [leads, follows, Bool.and_eq_true, beq_iff_eq] at h
  obtain ⟨⟨⟨hstrobe, hdata⟩, hpulse⟩, hrows⟩ := h
  refine ⟨⟨fun g hg => by simpa using List.all_eq_true.mp hstrobe g hg, hdata, hpulse⟩,
    fun addr strobe busreq hrow => ?_⟩
  have hbits := all_bits (all_bits (all_bits hrows addr) strobe) busreq
  rw [busRow_iff.mpr hrow, Bool.not_true, Bool.false_or, Bool.and_eq_true, busRow_iff] at hbits
  obtain ⟨hrow', hwindow⟩ := hbits
  refine ⟨hrow', fun g hg active hw => ?_⟩
  have hactive := all_bits (List.all_eq_true.mp hwindow g hg) active
  rw [decide_eq_true hw, Bool.not_true, Bool.false_or] at hactive
  exact of_decide_eq_true hactive

/-! ### What a line does to the flags -/

/-- `own` after a line. -/
def ownAfter (m : Micro) (own : BusOwnership) : BusOwnership :=
  match m with
  | .own o => o
  | _ => own

/-- `arm` after a line. -/
def armAfter (m : Micro) (arm : StepArm) : StepArm :=
  match m with
  | .armed => .armed
  | .disarmed => .disarmed
  | _ => arm

/-- `clock_mode` after a line. -/
def modeAfter (m : Micro) (mode : ClockMode) : ClockMode :=
  match m with
  | .mode m' => m'
  | .armed => .singleStep
  | .disarmed => if mode = .singleStep then .hardwareFree else mode
  | _ => mode

/-- Whether the clock mode is SingleStep after a line. -/
def singleAfter (m : Micro) (single : Bool) : Bool :=
  match m with
  | .mode m' => decide (m' = .singleStep)
  | .armed => true
  | .disarmed => false
  | _ => single

theorem decide_modeAfter (m : Micro) (mode : ClockMode) :
    decide (modeAfter m mode = .singleStep) = singleAfter m (decide (mode = .singleStep)) := by
  cases m with
  | disarmed =>
    by_cases e : mode = .singleStep <;> simp [modeAfter, singleAfter, e]
  | armed => rfl
  | _ => rfl

/-! ### Every line keeps to the table -/

/-- The line ends the operation. -/
def leaves : Micro → Bool
  | .ret | .fail _ => true
  | _ => false

/-- The position after line `k` when the operation goes on with the next line. -/
def placeAfter (i : Instr) (k : Nat) (l : ProgLine) : Seq := .running i (l.jump.getD (k + 1))

/-- The bus's rows lead along a line; the poll of `TAKE_BUS` goes on once the target is off the bus. -/
def busChecked (i : Instr) (k : Nat) (l : ProgLine) : Bool :=
  leaves l.micro || owners.all fun own => bits.all fun target => (takeAt (.running i k) == some 1 && target) ||
    leads (accessOf l.micro) own (ownAfter l.micro own) (.running i k) (placeAfter i k l) target

/-- Where an operation returns: past its last line, or at the return of `TAKE_BUS`, which stands before its cleanup. -/
def ended : Instr → Nat → Bool
  | .reset, k => 3 ≤ k
  | .takeBus, k => k == 9 || 12 ≤ k
  | .takeBusBank _, k => k == 18 || 21 ≤ k
  | .releaseBus r, k => (if r then 9 else 6) ≤ k
  | .memRead _, k | .ioRead _, k => 7 ≤ k
  | .memWrite _ _, k | .ioWrite _ _, k | .bankSelect _, k => 9 ≤ k
  | .slowClock _, k => 8 ≤ k
  | .singlestepOn, k => 4 ≤ k
  | .singlestepOff, k => 2 ≤ k
  | .autostep _, k => 7 ≤ k
  | .normalClock, _ | .stepWait, _ | .m1ReleaseWait, _ | .latchAddress _, _ => true

/-- The flags of the clock and of the single-step controller do not depend on which of the two positions stands. -/
def sameModes (q q' : Seq) : Bool :=
  (slowAt q).isNone && (slowAt q').isNone && comparing q' == comparing q && enabling q' == enabling q &&
    disabling q' == disabling q && switching q' == switching q

/-- The jumps: a poll's to its cleanup, along which the rows lead while the target owns the bus, and the loop's of
`AUTOSTEP` to its exit. The one line of `TAKE_BUS` that waits for the grant is that poll. A
return stands where an operation ends. -/
def jumpChecked (i : Instr) (k : Nat) (l : ProgLine) : Bool :=
  match l.micro with
  | .poll g want _ (some c) =>
    g == .busack && !want && sameModes (.running i k) (.running i c) &&
      owners.all fun own => leads none own own (.running i k) (.running i c) true
  | .whileArmed exit =>
    match i with
    | .autostep _ => decide (k < 5) && exit == 5
    | _ => false
  | .ret => takeAt (.running i k) != some 1 && ended i k
  | _ => takeAt (.running i k) != some 1

/-- The rows of the single-step controller lead along a line. -/
def armChecked (i : Instr) (k : Nat) (l : ProgLine) : Bool :=
  [StepArm.armed, .disarmed].all fun arm => bits.all fun single => bits.all fun cmp => bits.all fun en =>
    !decide (ArmRow arm single (.running i k) cmp en) || ((slowAt (.running i k)).isSome && arm == .armed) ||
      decide (ArmRow (armAfter l.micro arm) (singleAfter l.micro single) (placeAfter i k l)
        (tracked (accessOf l.micro) (.iocConfig .m1 .cmp true) (.iocConfig .m1 .cmp false) cmp)
        (tracked (accessOf l.micro) (.iocConfig .m1 .en true) (.iocConfig .m1 .en false) en))

/-- Outside `SLOW_CLOCK` no line de-asserts CLKEN, and none sets `clock_mode` but to HardwareFree. -/
def clockChecked (i : Instr) (k : Nat) (l : ProgLine) : Bool :=
  (slowAt (.running i k)).isSome || (tracked (accessOf l.micro) (.assert .clken) (.deassert .clken) true &&
    match l.micro with
    | .mode m => decide (m = .hardwareFree)
    | _ => true)

/-- A line keeps to the table. -/
def lineChecked (i : Instr) (k : Nat) (l : ProgLine) : Bool :=
  busChecked i k l && jumpChecked i k l && armChecked i k l && clockChecked i k l

def programChecked (i : Instr) (prog : List ProgLine) : Bool := prog.zipIdx.all fun x => lineChecked i x.2 x.1

theorem programOf_checked (c : Params) (i : Instr) : programChecked i (programOf c i) = true := by
  cases i with
  | memRead | memWrite | ioRead | ioWrite | bankSelect | takeBusBank | latchAddress =>
    simp only [programOf, memReadProgram, memWriteProgram, ioReadProgram, ioWriteProgram, bankSelectProgram,
      takeBusBankProgram, latchAddressProgram, readCycle, writeCycle, latchLines]
    cases c.addrPortOrder <;> rfl
  | releaseBus r => cases r <;> rfl
  | reset | takeBus | normalClock | slowClock | singlestepOn | singlestepOff | autostep | stepWait | m1ReleaseWait => rfl

/-- EVERY LINE OF EVERY PROGRAM keeps to the table. -/
theorem lineChecked_of_program {c : Params} {i : Instr} {k : Nat} {l : ProgLine}
    (hl : (programOf c i)[k]? = some l) : lineChecked i k l = true :=
  List.all_eq_true.mp (programOf_checked c i) (l, k) (List.mk_mem_zipIdx_iff_getElem?.mpr hl)

end Sys2Proof.Machine
end

section
/-! The invariants of R30 along one line of an operation. -/

namespace Sys2Proof.Machine

/-- A driven line and its latch say the same (R15). -/
theorem latchAt_iff_line {s : State} {g : Signal} (hout : isOutput s (s.cfg.pins.pin g) = true) (active : Bool) :
    latchAt s g active ↔ line s g = if active then .asserted else .deasserted := by
  refine ⟨line_of_latch hout, fun h => ?_⟩
  obtain ⟨b, hb⟩ := exists_latchAt s g
  rw [line_of_latch hout hb] at h
  rw [latchAt_iff hb]
  revert h
  cases b <;> cases active <;> decide

/-- `t` is `s` after line `k` of the operation has done its work and the sequencer has moved on. -/
structure LineDone (i : Instr) (k : Nat) (l : ProgLine) (s t : State) : Prop where
  accessed : Accessed (accessOf l.micro) s t
  seq : t.seq = placeAfter i k l
  own : t.own = ownAfter l.micro s.own
  arm : t.arm = armAfter l.micro s.arm
  mode : t.clockMode = modeAfter l.micro s.clockMode
  fault : t.fault = s.fault
  killed : t.killed = s.killed

section
variable {i : Instr} {k : Nat} {l : ProgLine} {s t : State}

theorem Accessed.clken {o : Option Prim} (ha : Accessed o s t) (hs : pinRoles s) {active : Bool}
    (h : line s .clken = if active then .asserted else .deasserted) :
    line t .clken = if tracked o (.assert .clken) (.deassert .clken) active then .asserted else .deasserted := by
  have hclken : Signal.clken ∈ [Signal.busreq, .reset, .clken, .clkout] := by decide
  rw [← latchAt_iff_line (hs.1 .clken hclken)] at h
  exact line_of_latch ((ha.roles hs).1 .clken hclken) (ha.latches .clken (by decide) _ h)

theorem slowAt_none (h : ∀ r, i ≠ .slowClock r) (k : Nat) : slowAt (.running i k) = none := by
  cases i with
  | slowClock r => exact absurd rfl (h r)
  | _ => rfl

/-- I-CLK outside `SLOW_CLOCK`: CLKEN stays asserted, and the mode HardwareFree or SingleStep. -/
theorem clockSafe_line_other (hi : ∀ r, i ≠ .slowClock r) (hs : Good s) (hq : s.seq = .running i k)
    (hcheck : clockChecked i k l = true) (hd : LineDone i k l s t) : clockSafe t := by
  have hslow : slowAt t.seq = none := by rw [hd.seq]; exact slowAt_none hi _
  obtain ⟨hmode, hclken⟩ := hs.clock.1 (by rw [hq]; exact slowAt_none hi _)
  simp only [clockChecked, slowAt_none hi, Option.isSome_none, Bool.false_or, Bool.and_eq_true] at hcheck
  obtain ⟨hkeep, hset⟩ := hcheck
  have hline := hd.accessed.clken hs.roles (active := true) hclken
  rw [hkeep] at hline
  refine ⟨fun _ => ⟨?_, hline⟩, fun p hp => by rw [hslow] at hp; cases hp⟩
  rw [hd.mode]
  cases hm : l.micro with
  | mode m =>
    rw [hm] at hset
    exact .inl (by simpa [modeAfter] using hset)
  | armed => exact .inr rfl
  | disarmed => rcases hmode with e | e <;> simp [modeAfter, e]
  | _ => exact hmode

end

/-- The row of `clockSafe` at a line of `SLOW_CLOCK`: the clock mode, and whether CLKEN is asserted. -/
abbrev ClockRow (r : Quantity) (mode : ClockMode) (k : Nat) (clken : Bool) : Prop :=
  (mode = .hardwareFree ∨ mode = .hostSlow r) ∧ (k = 0 → mode = .hardwareFree ∧ clken = true) ∧
    (k = 1 → mode = .hardwareFree ∧ clken = false) ∧ (2 ≤ k ∧ k ≤ 5 → mode = .hostSlow r ∧ clken = false) ∧
    (k = 6 → clken = decide (mode = .hardwareFree)) ∧ (7 ≤ k → clken = true) ∧ (8 ≤ k → mode = .hardwareFree)

theorem clockSafe_slow_iff {s : State} {r : Quantity} {k : Nat} {clken : Bool} (hq : slowAt s.seq = some (r, k))
    (hline : line s .clken = if clken then .asserted else .deasserted) :
    clockSafe s ↔ s.arm = .disarmed ∧ ClockRow r s.clockMode k clken := by
  unfold clockSafe
  rw [hq, hline]
  have hsix : ((if clken = true then Line.asserted else .deasserted) =
      if s.clockMode = .hardwareFree then Line.asserted else .deasserted) ↔
        clken = decide (s.clockMode = .hardwareFree) := by
    by_cases e : s.clockMode = .hardwareFree <;> cases clken <;> simp [e]
  cases clken <;> simp_all

/-- The rows of I-CLK along the lines of `SLOW_CLOCK` (R132, R133). -/
theorem clockRow_line {c : Params} {r : Quantity} {k : Nat} {l : ProgLine} {mode : ClockMode} {clken : Bool}
    (hl : (programOf c (.slowClock r))[k]? = some l) (h : ClockRow r mode k clken) :
    armAfter l.micro .disarmed = .disarmed ∧ ClockRow r (modeAfter l.micro mode) (l.jump.getD (k + 1))
      (tracked (accessOf l.micro) (.assert .clken) (.deassert .clken) clken) := by
  obtain ⟨hmode, h0, h1, h2, h6, h7, h8⟩ := h
  rcases k with _ | _ | _ | _ | _ | _ | _ | _ | k <;>
    simp [programOf, slowClockProgram, ln, lnLoop] at hl <;> subst hl <;>
    simp_all [ClockRow, armAfter, modeAfter, accessOf, tracked]

section
variable {i : Instr} {k : Nat} {l : ProgLine} {s t : State}

theorem exists_line_of_output {g : Signal} (hout : isOutput s (s.cfg.pins.pin g) = true) :
    ∃ active : Bool, line s g = if active then .asserted else .deasserted := by
  obtain ⟨active, h⟩ := exists_latchAt s g
  exact ⟨active, line_of_latch hout h⟩

/-- I-CLK in `SLOW_CLOCK`. -/
theorem clockSafe_line_slow {r : Quantity} (hs : Good s) (hq : s.seq = .running (.slowClock r) k)
    (hl : (programOf s.cfg (.slowClock r))[k]? = some l) (hd : LineDone (.slowClock r) k l s t) : clockSafe t := by
  obtain ⟨clken, hline⟩ := exists_line_of_output (hs.roles.1 .clken (by decide))
  obtain ⟨harm, hrow⟩ := (clockSafe_slow_iff (by rw [hq]; rfl) hline).mp hs.clock
  rw [clockSafe_slow_iff (by rw [hd.seq]; rfl) (hd.accessed.clken hs.roles hline), hd.mode, hd.arm, harm]
  exact clockRow_line hl hrow

/-- The rows of the single-step controller along a line. -/
theorem armSafe_line (hs : Good s) (hq : s.seq = .running i k) (hcheck : armChecked i k l = true)
    (hd : LineDone i k l s t) : armSafe t := by
  have hrow := (armSafe_iff s).mp hs.arming
  have hslow : ((slowAt (.running i k)).isSome && s.arm == .armed) = false := by
    rw [← hq]
    cases e : slowAt s.seq with
    | none => rfl
    | some p => simp [(hs.clock.2 p e).1]
  rw [armSafe_iff, hd.arm, hd.mode, decide_modeAfter, hd.seq, hd.accessed.ioc .cmp, hd.accessed.ioc .en]
  have hbits := all_bits (all_bits (all_bits
    (List.all_eq_true.mp hcheck s.arm (by cases s.arm <;> decide)) (decide (s.clockMode = .singleStep)))
    (iocBitOf s .cmp)) (iocBitOf s .en)
  rw [← hq, decide_eq_true hrow, Bool.not_true, Bool.false_or, hq, hslow, Bool.false_or] at hbits
  exact of_decide_eq_true hbits

/-- The bus's rows along a line, where a poll that waits for the grant has seen it. -/
theorem leads_line (hcheck : busChecked i k l = true) (hleaves : leaves l.micro = false) {own : BusOwnership}
    {target : Bool} (hgrant : takeAt (.running i k) = some 1 → target = false) :
    Leads (accessOf l.micro) own (ownAfter l.micro own) (.running i k) (placeAfter i k l) target := by
  unfold busChecked at hcheck
  rw [hleaves, Bool.false_or] at hcheck
  have hbits := all_bits (all_owners hcheck own) target
  have hwait : (takeAt (.running i k) == some 1 && target) = false := by
    cases h : takeAt (.running i k) == some 1
    · rfl
    · simpa using hgrant (by simpa using h)
  rw [hwait, Bool.false_or] at hbits
  exact leads_sound hbits

/-- THE INVARIANT ALONG A LINE. -/
theorem Good.line (hs : Good s) (hq : s.seq = .running i k) (hl : (programOf s.cfg i)[k]? = some l)
    (hd : LineDone i k l s t) (hleaves : leaves l.micro = false)
    (hgrant : takeAt (.running i k) = some 1 → s.target.ownsBus = false) :
    Good t ∧ (Machine.strobesAsPlaced s → Machine.strobesAsPlaced t) := by
  have hcheck := lineChecked_of_program hl
  simp only [lineChecked, Bool.and_eq_true] at hcheck
  obtain ⟨⟨⟨hbus, _⟩, harm⟩, hclock⟩ := hcheck
  have hlead := leads_line hbus hleaves (own := s.own) hgrant
  rw [← hd.own, ← hq, ← hd.seq] at hlead
  refine hs.along hd.accessed (hd.fault.trans hs.noFault) (hd.killed.trans hs.alive) hlead ?_
    (armSafe_line hs hq harm hd)
  by_cases hi : ∀ r, i ≠ .slowClock r
  · exact clockSafe_line_other hi hs hq hclock hd
  · push Not at hi
    obtain ⟨r, rfl⟩ := hi
    exact clockSafe_line_slow hs hq hl hd

end

end Sys2Proof.Machine
end

section
/-! The invariants of R30 along what is no line: the environment's acts, a poll that waits, a cancellation, a poll's cleanup,
a return. -/

namespace Sys2Proof.Machine

/-- `t` keeps the invariant, and the strobe latches as the position asks where they stood so in `s`. -/
def KeepsGood (s t : State) : Prop := Good t ∧ (strobesAsPlaced s → strobesAsPlaced t)

theorem KeepsGood.trans {s t u : State} (h : KeepsGood s t) (k : KeepsGood t u) : KeepsGood s u :=
  ⟨k.1, fun hp => k.2 (h.2 hp)⟩

theorem Good.keepsGood_refl {s : State} (h : Good s) : KeepsGood s s := ⟨h, id⟩

/-! ### The environment -/

/-- The target takes the bus only where BUSREQ is de-asserted, and off the bus holds M1 de-asserted (R45). -/
structure BusContract (s t : State) : Prop where
  bus : line s .busreq = .asserted → s.target.ownsBus = false → t.target.ownsBus = false
  m1 : (s.target.ownsBus = false → s.target.m1 = false) → t.target.ownsBus = false → t.target.m1 = false

theorem BusContract.of_target_eq {s t : State} (hbus : t.target.ownsBus = s.target.ownsBus)
    (hm1 : t.target.m1 = s.target.m1) : BusContract s t :=
  ⟨fun _ h => hbus.trans h, fun h h' => hm1.trans (h (hbus.symm.trans h'))⟩

theorem storeByte_contract (a : Addr) (v : Byte) (s : State) : BusContract s (storeByte a v s) :=
  have h := storeByte_board a v s s.draws
  .of_target_eq h.ownsBus h.m1

theorem ioAccess_contract (x : IoAccess) (s : State) : BusContract s (ioAccess x s) :=
  have h := ioAccess_board x s s.draws
  .of_target_eq h.ownsBus h.m1

theorem bankAct_contract (b : Byte) (s : State) :
    BusContract s (holdWrite { s with target := { s.target with bank := b } }) :=
  have h := holdWrite_board { s with target := { s.target with bank := b } }
  .of_target_eq h.ownsBus h.m1

/-- One act of the environment keeps the target's contract (R44 to R46). -/
theorem applyAct_contract (s : State) (a : EnvAct) : BusContract s (applyAct s a) := by
  have hself : BusContract s s := .of_target_eq rfl rfl
  cases a with simp only [applyAct]
  | grant =>
    split
    · next h =>
      simp only [Bool.and_eq_true, Bool.not_eq_true', beq_iff_eq] at h
      obtain ⟨⟨⟨_, hm1⟩, _⟩, _⟩ := h
      exact ⟨fun _ _ => rfl, fun _ _ => hm1⟩
    · exact hself
  | resume =>
    split
    · next h =>
      simp only [Bool.and_eq_true, Bool.not_eq_true', beq_iff_eq] at h
      obtain ⟨⟨_, hreq⟩, _⟩ := h
      exact ⟨fun ha => absurd (hreq.symm.trans ha) (by decide), fun _ => Bool.noConfusion⟩
    · exact hself
  | m1Assert =>
    split
    · next h =>
      simp only [Bool.and_eq_true, Bool.not_eq_true'] at h
      obtain ⟨⟨hbus, _⟩, _⟩ := h
      have hown : (beginFetch s).target.ownsBus = s.target.ownsBus := rfl
      exact ⟨fun _ hb => hown.trans hb, fun _ hb => absurd (hbus.symm.trans (hown.symm.trans hb)) (by decide)⟩
    · exact hself
  | m1Deassert =>
    split
    · exact ⟨fun _ hb => hb, fun _ _ => rfl⟩
    · exact hself
  | memWrite a v =>
    split
    · exact storeByte_contract a v s
    · exact hself
  | io x =>
    split
    · exact ioAccess_contract x s
    · exact hself
  | bank b =>
    split
    · exact bankAct_contract b s
    · exact hself
  | int | clk | user => exact .of_target_eq rfl rfl
  | cancel | elapse => split <;> exact .of_target_eq rfl rfl

theorem strobesAsPlaced_congr {s t : State} (hcfg : t.cfg = s.cfg) (hout : t.out = s.out) (hseq : t.seq = s.seq)
    (h : strobesAsPlaced s) : strobesAsPlaced t := by
  intro g hg
  rw [latchAt_congr hcfg hout, hseq]
  exact h g hg

/-- The target may go off the bus in any row, and come back where BUSREQ is de-asserted. -/
theorem BusRow.target {own : BusOwnership} {q : Seq} {addr strobe busreq target target' : Bool}
    (h : BusRow own q addr strobe busreq target) (ht : busreq = true → target = false → target' = false) :
    BusRow own q addr strobe busreq target' := by
  obtain ⟨hacq, hgrant, htake⟩ := h.driven
  refine { h with driven := ⟨fun ho => ?_, fun hd => ?_, fun k hk h1 => ?_⟩ }
  · obtain ⟨ha, hst, hr, hn⟩ := hacq ho
    exact ⟨ha, hst, hr, ht hr hn⟩
  · obtain ⟨hr, hn⟩ := hgrant hd
    exact ⟨hr, ht hr hn⟩
  · obtain ⟨hr, hn⟩ := htake k hk h1
    exact ⟨hr, fun h2 => ht hr (hn h2)⟩

/-- What the environment may do keeps the invariant. -/
theorem Good.env {s t : State} (hs : Good s) (hk : EnvKept s t) (hb : BusContract s t) : KeepsGood s t := by
  refine ⟨?_, strobesAsPlaced_congr hk.cfg hk.out hk.seq⟩
  obtain ⟨addr, strobe, busreq, hl⟩ := hs.exists_busLevels
  have hl' : BusLevels t addr strobe busreq :=
    ⟨(groupAt_congr hk.cfg hk.dir _ _).mpr hl.addr, (groupAt_congr hk.cfg hk.dir _ _).mpr hl.strobe,
      (latchAt_congr hk.cfg hk.out _ _).mpr hl.busreq, (pinRoles_congr hk.cfg hk.dir hs.roles).1 .busreq (by decide)⟩
  have hrow : BusRow t.own t.seq addr strobe busreq t.target.ownsBus := by
    rw [hk.own, hk.seq]
    exact (hl.busRow hs).target fun hr => hb.bus (hl.busreq_iff.1.mpr hr)
  have hfloat : Machine.dataFloats t ↔ Machine.dataFloats s := groupAt_congr hk.cfg hk.dir .data false
  have hbus := hl'.busSafe (fun hd => by
    rw [hfloat] at hd
    rw [hk.own]
    exact hs.own_of_driveData (hs.driveData_of_output hd)) hrow
  obtain ⟨haddr, hstrobes, hdata⟩ := hs.floating
  obtain ⟨hm1, hreset⟩ := hs.target
  exact {
    params := by rw [hk.cfg]; exact hs.params
    noFault := hk.fault.trans hs.noFault
    alive := hk.killed.trans hs.alive
    memory := hk.memory hs.memory
    roles := pinRoles_congr hk.cfg hk.dir hs.roles
    position := hbus.position
    driven := hbus.driven
    floating := ⟨haddr.imp (groupAt_congr hk.cfg hk.dir .addr true).mpr (groupAt_congr hk.cfg hk.dir .addr false).mpr,
      hstrobes.imp (groupAt_congr hk.cfg hk.dir .strobes true).mpr (groupAt_congr hk.cfg hk.dir .strobes false).mpr, by
        rw [← groupAt_data_iff, groupAt_congr hk.cfg hk.dir, hk.seq, groupAt_data_iff]
        exact hdata⟩
    outside := hbus.outside
    taking := hbus.taking
    withdrawing := hbus.withdrawing
    releasing := hbus.releasing
    window := by
      obtain ⟨hevents, hwindow⟩ := hs.window
      refine ⟨fun g hg ht => ?_, ?_⟩
      · rw [latchAt_congr hk.cfg hk.out, hk.seq]
        exact hevents g hg (by rwa [hk.trace] at ht)
      · rw [hl'.window_iff, hk.own, hk.seq]
        intro g hg active ha
        exact hl.window_iff.mp hwindow g hg active ((latchAt_congr hk.cfg hk.out _ _).mp ha)
    target := ⟨hb.m1 hm1, by rw [hk.line, hk.seq]; exact hreset⟩
    clock := by
      have h := hs.clock
      unfold clockSafe at h ⊢
      rwa [hk.line, hk.seq, hk.clockMode, hk.arm]
    arming := by
      rw [armSafe_iff, hk.arm, hk.clockMode, hk.seq, iocBitOf_congr hk.cfg hk.en hk.dflt hk.cmp,
        iocBitOf_congr hk.cfg hk.en hk.dflt hk.cmp, ← armSafe_iff]
      exact hs.arming }

theorem Good.applyActs {s : State} (hs : Good s) (l : List EnvAct) : KeepsGood s (applyActs s l) := by
  induction l generalizing s with
  | nil => exact hs.keepsGood_refl
  | cons a l ih =>
    have h := hs.env (applyAct_kept s a) (applyAct_contract s a)
    exact h.trans (ih h.1)

/-- A BOUNDARY KEEPS THE INVARIANT, whatever the environment does. -/
theorem Good.boundary {s : State} (hs : Good s) : KeepsGood s (boundary s).1 := by
  have hspend {t : State} (ht : Good t) : KeepsGood t (spendEdge t) :=
    ht.env (spendEdge_kept t) (.of_target_eq rfl rfl)
  unfold Machine.boundary
  split
  · exact hspend hs
  · next sl rest _ =>
    have henv : KeepsGood s { s with env := rest } :=
      hs.env { EnvKept.refl s with } (.of_target_eq rfl rfl)
    have hacts := henv.trans (henv.1.applyActs sl.acts)
    exact hacts.trans (hspend hacts.1)

end Sys2Proof.Machine
end

section
/-! The invariants of R30 along jumps and returns, and over a tick. -/

namespace Sys2Proof.Machine

/-! ### Jumps -/

/-- The two positions ask for the same of everything. -/
structure SamePlace (q q' : Seq) : Prop where
  write : writeAt q' = writeAt q
  read : readAt q' = readAt q
  request : requestOf q' = requestOf q
  take : takeAt q' = takeAt q
  withdraw : withdrawAt q' = withdrawAt q
  release : releaseAt q' = releaseAt q
  pulse : pulseAt q' = pulseAt q

/-- The two positions ask for the same of the single-step controller. -/
structure SameArming (q q' : Seq) : Prop where
  comparing : comparing q' = comparing q
  enabling : enabling q' = enabling q
  disabling : disabling q' = disabling q
  switching : switching q' = switching q

/-- The two positions ask for the same of the clock too. -/
structure SameModes (q q' : Seq) : Prop extends SameArming q q' where
  slow : slowAt q' = slowAt q

theorem SamePlace.activeStrobe {q q' : Seq} (h : SamePlace q q') (g : Signal) : activeStrobe q' g = activeStrobe q g := by
  unfold Machine.activeStrobe
  rw [h.write, h.read, h.request]

theorem SamePlace.leads {q q' : Seq} (h : SamePlace q q') (own : BusOwnership) (target : Bool) :
    Leads none own own q q' target where
  follows := {
    strobe := fun g _ => by rw [tracked_none, h.activeStrobe]
    data := by unfold driveData; rw [tracked_none, h.write]
    pulse := by rw [tracked_none, h.pulse] }
  bus addr strobe busreq hrow := by
    simp only [tracked_none]
    refine ⟨?_, fun g _ active hw => ?_⟩
    · obtain ⟨hplace, hdriven, houtside, htaking, hwithdrawing, hreleasing⟩ := hrow
      constructor
      · rwa [PlaceRow, h.write, h.read, h.take, h.withdraw, h.release]
      · rwa [DrivenRow, h.take]
      · rwa [OutsideRow, h.take, h.withdraw, h.release]
      · rwa [TakingRow, h.take]
      · rwa [WithdrawingRow, h.withdraw]
      · rwa [ReleasingRow, h.release]
    · rwa [WindowRow, h.take, h.activeStrobe]

section
variable {s t : State}

theorem clockSafe_sameModes (hs : Good s) (ha : Accessed none s t) (hm : slowAt t.seq = slowAt s.seq)
    (harm : t.arm = s.arm) (hmode : t.clockMode = s.clockMode) : clockSafe t := by
  have hclken : line t .clken = line s .clken := by
    obtain ⟨active, h⟩ := exists_line_of_output (hs.roles.1 .clken (by decide))
    rw [ha.clken hs.roles h, tracked_none, h]
  have h := hs.clock
  unfold clockSafe at h ⊢
  rwa [hclken, hm, harm, hmode]

theorem armSafe_sameArming (hs : Good s) (ha : Accessed none s t) (hm : SameArming s.seq t.seq) (harm : t.arm = s.arm)
    (hmode : t.clockMode = s.clockMode) : armSafe t := by
  have h := (armSafe_iff s).mp hs.arming
  rw [armSafe_iff, ha.ioc, ha.ioc, tracked_none, tracked_none, harm, hmode]
  unfold ArmRow at h ⊢
  rwa [hm.comparing, hm.enabling, hm.disabling, hm.switching]

/-- The controller's flags stay. -/
structure FlagsStay (s t : State) : Prop where
  own : t.own = s.own
  arm : t.arm = s.arm
  mode : t.clockMode = s.clockMode
  fault : t.fault = s.fault
  killed : t.killed = s.killed

/-- THE INVARIANT ALONG A JUMP between positions that ask for the same of the clock and of the single-step controller. -/
theorem Good.jump (hs : Good s) (ha : Accessed none s t) (hf : FlagsStay s t)
    (hlead : Leads none s.own s.own s.seq t.seq s.target.ownsBus) (hm : SameModes s.seq t.seq) : KeepsGood s t := by
  refine hs.along ha (hf.fault.trans hs.noFault) (hf.killed.trans hs.alive) ?_
    (clockSafe_sameModes hs ha hm.slow hf.arm hf.mode) (armSafe_sameArming hs ha hm.toSameArming hf.arm hf.mode)
  rwa [hf.own]

/-- The invariant where the sequencer stays. -/
theorem Good.stay (hs : Good s) (ha : Accessed none s t) (hf : FlagsStay s t) (hq : t.seq = s.seq) : KeepsGood s t := by
  refine hs.jump ha hf ?_ ?_ <;> rw [hq]
  · exact SamePlace.leads ⟨rfl, rfl, rfl, rfl, rfl, rfl, rfl⟩ _ _
  · exact ⟨⟨rfl, rfl, rfl, rfl⟩, rfl⟩

end

/-- A read is no access that the invariants look at. -/
theorem Accessed.of_sample {g : Signal} {s t : State} (h : Accessed (some (.sample g)) s t) : Accessed none s t where
  cfg := h.cfg
  ownsBus := h.ownsBus
  m1 := h.m1
  memory := h.memory
  roles := h.roles
  latches k hk active hs := by
    have hl := h.latches k hk active hs
    rwa [tracked_other (by simp) (by simp)] at hl ⊢
  groups k o hs := by
    have hg := h.groups k o hs
    rwa [tracked_other (by simp) (by simp)] at hg ⊢
  ioc f := by rw [h.ioc f, tracked_other (by simp) (by simp), tracked_none]
  trace k hk := (h.trace k hk).imp_right (by simp)

/-! ### A cancellation -/

/-- The loop of `AUTOSTEP` and its handler's first line ask for the same. -/
theorem autostep_samePlace (r : Quantity) (k : Nat) : SamePlace (.running (.autostep r) k) (.running (.autostep r) 5) :=
  ⟨rfl, rfl, rfl, rfl, rfl, rfl, rfl⟩

theorem autostep_sameModes (r : Quantity) {k : Nat} (hk : k < 5) :
    SameModes (.running (.autostep r) k) (.running (.autostep r) 5) :=
  ⟨⟨rfl, rfl, by simp [disabling]; omega, rfl⟩, rfl⟩

theorem slowClock_samePlace (r : Quantity) (k : Nat) :
    SamePlace (.running (.slowClock r) k) (.running (.slowClock r) 6) :=
  ⟨rfl, rfl, rfl, rfl, rfl, rfl, rfl⟩

/-- At each line of `SLOW_CLOCK` that a cancellation can be taken before, CLKEN is de-asserted exactly where the mode is no
longer HardwareFree, as at the handler's first line (R192). Line 1 has no boundary. -/
theorem clockRow_cancel {r : Quantity} {mode : ClockMode} {k : Nat} {clken : Bool} (h : ClockRow r mode k clken)
    (hk : k < 6) (h1 : k ≠ 1) : ClockRow r mode 6 clken := by
  obtain ⟨hmode, h0, _, h25, _, _, _⟩ := h
  rcases Nat.eq_zero_or_pos k with rfl | hpos
  · obtain ⟨hm, hc⟩ := h0 rfl
    simp [ClockRow, hm, hc]
  · obtain ⟨hm, hc⟩ := h25 (by omega)
    simp [ClockRow, hm, hc]

theorem accessed_of_sameHardware {s t : State} (h : SameHardware s t) (htrace : t.trace = s.trace) :
    Accessed none s t :=
  (Accessed.of_registers_eq rfl rfl rfl rfl rfl rfl rfl rfl id fun _ => id : Accessed none s s).then_same h htrace

/-- THE INVARIANT ALONG A CANCELLATION: the handler of the operation's scope begins. -/
theorem Good.takeCancel {s : State} (hs : Good s) (hc : cancellable s.seq = true)
    (h1 : ∀ r, s.seq ≠ .running (.slowClock r) 1) : KeepsGood s (takeCancel s) := by
  have ha : Accessed none s (Machine.takeCancel s) := accessed_of_sameHardware ⟨rfl, rfl, rfl, rfl, rfl⟩ rfl
  have hf : FlagsStay s (Machine.takeCancel s) := ⟨rfl, rfl, rfl, rfl, rfl⟩
  cases hq : s.seq with
  | idle => simp [hq, cancellable] at hc
  | running i k =>
    cases i with
    | autostep r =>
      have hk : k < 5 := by simpa [hq, cancellable, scopeHandler] using hc
      have hq' : (Machine.takeCancel s).seq = .running (.autostep r) 5 := by simp [Machine.takeCancel, hq, scopeHandler]
      refine hs.jump ha hf ?_ ?_ <;> rw [hq, hq']
      · exact (autostep_samePlace r k).leads _ _
      · exact autostep_sameModes r hk
    | slowClock r =>
      have hk : k < 6 := by simpa [hq, cancellable, scopeHandler] using hc
      have hq' : (Machine.takeCancel s).seq = .running (.slowClock r) 6 := by
        simp [Machine.takeCancel, hq, scopeHandler]
      have hk1 : k ≠ 1 := fun e => h1 r (by rw [hq, e])
      refine hs.along ha hs.noFault hs.alive ?_ ?_ (armSafe_sameArming hs ha ?_ rfl rfl)
      · rw [hq, hq']
        exact (slowClock_samePlace r k).leads _ _
      · obtain ⟨clken, hline⟩ := exists_line_of_output (hs.roles.1 .clken (by decide))
        obtain ⟨harm, hrow⟩ := (clockSafe_slow_iff (by rw [hq]; rfl) hline).mp hs.clock
        have hline' := ha.clken hs.roles hline
        rw [tracked_none] at hline'
        exact (clockSafe_slow_iff (by rw [hq']; rfl) hline').mpr ⟨harm, clockRow_cancel hrow hk hk1⟩
      · rw [hq, hq']
        exact ⟨rfl, rfl, rfl, rfl⟩
    | _ => simp [hq, cancellable, scopeHandler] at hc

/-! ### A return -/

theorem latchLines_length (c : Params) (a : Addr) : (latchLines c a).length = 2 := by
  unfold latchLines
  split <;> rfl

theorem ended_of_past {c : Params} {i : Instr} {k : Nat} (h : (programOf c i)[k]? = none) : ended i k = true := by
  rw [List.getElem?_eq_none_iff] at h
  cases i with
  | releaseBus r => cases r <;> simpa [ended, programOf, releaseBusProgram, resetLines] using h
  | memRead | ioRead =>
    simpa [ended, programOf, memReadProgram, ioReadProgram, readCycle, latchLines_length] using h
  | memWrite | ioWrite | bankSelect =>
    simpa [ended, programOf, memWriteProgram, ioWriteProgram, bankSelectProgram, writeCycle, latchLines_length] using h
  | takeBusBank =>
    simp [programOf, takeBusBankProgram, takeBusLines, takeBusEnd, bankSelectProgram, writeCycle, latchLines_length] at h
    simp [ended, h]
  | takeBus =>
    simp [programOf, takeBusProgram, takeBusLines, takeBusEnd] at h
    simp [ended, h]
  | reset => simpa [ended, programOf, resetProgram, resetLines] using h
  | slowClock => simpa [ended, programOf, slowClockProgram] using h
  | singlestepOn => simpa [ended, programOf, singlestepOnProgram] using h
  | singlestepOff => simpa [ended, programOf, singlestepOffProgram, singlestepOffLines] using h
  | autostep => simpa [ended, programOf, autostepProgram, stepWaitLines, singlestepOffLines] using h
  | normalClock | stepWait | m1ReleaseWait | latchAddress => rfl

/-- What the positions at which an operation ends have in common: the cycles, the release and the pulse are done, and the
cleanup of `TAKE_BUS` would have ended in its fault. -/
structure Ended (q : Seq) : Prop where
  write : ∀ k ∈ writeAt q, 9 ≤ k
  read : ∀ k ∈ readAt q, 7 ≤ k
  take : ∀ k ∈ takeAt q, k = 9
  withdraw : ∀ k ∈ withdrawAt q, 2 ≤ k
  release : ∀ p ∈ releaseAt q, p.2 < p.1
  pulse : pulseAt q = false

theorem ended_place {i : Instr} {k : Nat} (h : ended i k = true) : Ended (.running i k) := by
  cases i with
  | takeBus =>
    simp only [ended, Bool.or_eq_true, beq_iff_eq, decide_eq_true_eq] at h
    constructor <;> simp [writeAt, readAt, takeAt, withdrawAt, releaseAt, pulseAt] <;> omega
  | takeBusBank =>
    simp only [ended, Bool.or_eq_true, beq_iff_eq, decide_eq_true_eq] at h
    constructor <;> simp [writeAt, readAt, takeAt, withdrawAt, releaseAt, pulseAt] <;> omega
  | releaseBus r =>
    simp only [ended, decide_eq_true_eq] at h
    cases r <;> simp at h <;> constructor <;> simp [writeAt, readAt, takeAt, withdrawAt, releaseAt, pulseAt] <;> omega
  | memRead | ioRead | memWrite | ioWrite | bankSelect =>
    simp only [ended, decide_eq_true_eq] at h
    constructor <;> simp [writeAt, readAt, takeAt, withdrawAt, releaseAt, pulseAt, h]
  | reset =>
    simp only [ended, decide_eq_true_eq] at h
    refine ⟨nofun, nofun, nofun, nofun, nofun, ?_⟩
    simp only [pulseAt, Bool.and_eq_false_iff, decide_eq_false_iff_not]
    omega
  | normalClock | slowClock | singlestepOn | singlestepOff | autostep | stepWait | m1ReleaseWait | latchAddress =>
    constructor <;> simp [writeAt, readAt, takeAt, withdrawAt, releaseAt, pulseAt]

section
variable {q : Seq}

theorem Ended.activeStrobe (h : Ended q) (g : Signal) : activeStrobe q g = false := by
  unfold Machine.activeStrobe
  split
  · next k hk =>
    have h9 := h.write k hk
    simp; omega
  · next k _ hk =>
    have h7 := h.read k hk
    simp; omega
  · rfl

theorem Ended.driveData (h : Ended q) : driveData q = false := by
  unfold Machine.driveData
  split
  · next k hk =>
    have h9 := h.write k hk
    simp; omega
  · rfl

/-- Where an operation ends with the bus Released, nothing of it is driven or requested. -/
theorem Ended.released (h : Ended q) {own : BusOwnership} {addr strobe busreq target : Bool}
    (hrow : BusRow own q addr strobe busreq target) (ho : own = .released) :
    addr = false ∧ strobe = false ∧ busreq = false := by
  obtain ⟨_, _, htake9, hcleanup, _, _, _⟩ := hrow.place
  cases htake : takeAt q with
  | some k =>
    have hacq := htake9 k htake (h.take k htake)
    rw [ho] at hacq
    cases hacq
  | none =>
    cases hwithdraw : withdrawAt q with
    | some k =>
      have h2 := h.withdraw k hwithdraw
      obtain ⟨h1, _⟩ := hcleanup k hwithdraw
      omega
    | none =>
      cases hrelease : releaseAt q with
      | none => exact hrow.outside ho htake hwithdraw hrelease
      | some p =>
        have hdone := h.release p hrelease
        obtain ⟨haddr, hstrobe, hreq, _⟩ := hrow.releasing ho p hrelease
        have h4 : 4 ≤ p.2 := by
          unfold releaseAt at hrelease
          split at hrelease
          · cases hrelease
            dsimp only
            split <;> omega
          · cases hrelease
        exact ⟨haddr (by omega), hstrobe (by omega), hreq hdone⟩

/-- The bus's rows lead from an operation's end to the idle sequencer. -/
theorem Ended.leads (h : Ended q) (own : BusOwnership) (target : Bool) : Leads none own own q .idle target where
  follows := {
    strobe := fun g _ => by rw [tracked_none, h.activeStrobe]; rfl
    data := by rw [tracked_none, h.driveData]; rfl
    pulse := by rw [tracked_none, h.pulse]; rfl }
  bus addr strobe busreq hrow := by
    simp only [tracked_none]
    obtain ⟨hacq, hgrant, _⟩ := hrow.driven
    refine ⟨⟨by simp [PlaceRow, writeAt, readAt, takeAt, withdrawAt, releaseAt], ⟨hacq, hgrant, by simp [takeAt]⟩,
      fun ho _ _ _ => h.released hrow ho, by simp [TakingRow, takeAt], by simp [WithdrawingRow, withdrawAt],
      by simp [ReleasingRow, releaseAt]⟩, fun g hg active hw hst => ?_⟩
    have hown : ¬ (own = .released ∧ (takeAt q).isSome = true) := by
      rintro ⟨ho, _⟩
      obtain ⟨_, hfloat, _⟩ := h.released hrow ho
      rw [hst] at hfloat
      cases hfloat
    have hactive := hw hst
    rw [if_neg hown, h.activeStrobe] at hactive
    rw [if_neg (by simp [takeAt])]
    exact hactive

end

theorem armSafe_opReturn {s : State} (hs : Good s) {i : Instr} {k : Nat} (hq : s.seq = .running i k)
    (h : ended i k = true) : armSafe (opReturn s) := by
  obtain ⟨hiff, hcmp, hen, _⟩ := (armSafe_iff s).mp hs.arming
  rw [hq] at hen
  have hplace : enabling (.running i k) = false ∧ disabling (.running i k) = false := by
    cases i with
    | singlestepOn | singlestepOff | autostep =>
      simp only [ended, decide_eq_true_eq] at h
      simp [enabling, disabling]; omega
    | _ => exact ⟨rfl, rfl⟩
  rw [hplace.1, hplace.2] at hen
  exact (armSafe_iff (opReturn s)).mpr
    ⟨hiff, fun ha => hcmp (.inl (by simpa [comparing] using ha)), hen, fun h => nomatch h⟩

theorem clockSafe_opReturn {s : State} (hs : Good s) {i : Instr} {k : Nat} (hq : s.seq = .running i k)
    (h : ended i k = true) : clockSafe (opReturn s) := by
  refine ⟨fun _ => ?_, fun p hp => nomatch hp⟩
  by_cases hi : ∃ r, i = .slowClock r
  · obtain ⟨r, rfl⟩ := hi
    have h8 : 8 ≤ k := by simpa [ended] using h
    obtain ⟨_, _, _, _, _, _, hline, hmode⟩ := hs.clock.2 (r, k) (by rw [hq]; rfl)
    exact ⟨.inl (hmode h8), hline (by simp only; omega)⟩
  · push Not at hi
    exact hs.clock.1 (by rw [hq]; exact slowAt_none hi k)

/-- THE INVARIANT ALONG A RETURN. -/
theorem Good.opReturn {s : State} (hs : Good s) {i : Instr} {k : Nat} (hq : s.seq = .running i k)
    (h : ended i k = true) : KeepsGood s (opReturn s) := by
  refine hs.along (accessed_of_sameHardware ⟨rfl, rfl, rfl, rfl, rfl⟩ rfl) hs.noFault hs.alive ?_
    (clockSafe_opReturn hs hq h) (armSafe_opReturn hs hq h)
  rw [hq]
  exact (ended_place h).leads _ _

end Sys2Proof.Machine
end

section
/-! The invariants of R30 over a tick: every line of every operation, whatever the environment does at its boundaries. -/

namespace Sys2Proof.Machine

/-! ### What a line can come to without a fault and without a kill -/

/-- An access without fault and kill: a cancellation is taken, or the access is made. -/
theorem access_unharmed {p : Prim} {pos : Pos} {f : State → State} {s : State} (hf : (access p pos f s).fault = none)
    (hk : (access p pos f s).killed = false) :
    (cancellable (boundary s).1.seq = true ∧ access p pos f s = takeCancel (boundary s).1) ∨
      access p pos f s = f (boundary s).1 := by
  rcases access_cases p pos f s with ⟨hc, e⟩ | ⟨_, ⟨_, e⟩ | ⟨n, _, e⟩ | ⟨_, e⟩⟩
  · rw [Bool.and_eq_true] at hc
    exact .inl ⟨hc.1, e⟩
  · exact .inr e
  · rw [e] at hf
    cases hf
  · rw [e] at hk
    cases hk

/-- A boundary with no access after it, without a kill. -/
theorem settle_unharmed {f : State → State} {s : State} (hk : (settle f s).killed = false) :
    settle f s = f (boundary s).1 := by
  rcases settle_cases f s with ⟨_, e⟩ | ⟨_, e⟩
  · rw [e] at hk
    cases hk
  · exact e

/-- A sleep without a kill: a cancellation is taken before it or inside it, or it runs its time. -/
theorem sleepFor_unharmed {d : State → Quantity} {f : State → State} {s : State}
    (hk : (sleepFor d f s).killed = false) :
    (cancellable (boundary s).1.seq = true ∧ sleepFor d f s = takeCancel (boundary s).1) ∨
      (cancellable (boundary (boundary s).1).1.seq = true ∧ ∃ e,
        sleepFor d f s = takeCancel (emit (.sleep e true) (boundary (boundary s).1).1)) ∨
      ∃ e now, sleepFor d f s = f (emit (.sleep e false) { (boundary (boundary s).1).1 with now := now }) := by
  unfold sleepFor at hk ⊢
  dsimp only at hk ⊢
  split at hk
  · next hc =>
    rw [if_pos hc]
    rw [Bool.and_eq_true] at hc
    exact .inl ⟨hc.1, rfl⟩
  · next hc =>
    rw [if_neg hc]
    split at hk
    · cases hk
    · next hb =>
      rw [if_neg hb]
      split at hk
      · next hc' =>
        rw [if_pos hc']
        rw [Bool.and_eq_true] at hc'
        exact .inr (.inl ⟨hc'.1, _, rfl⟩)
      · next hc' =>
        rw [if_neg hc']
        split at hk
        · cases hk
        · next hb' =>
          rw [if_neg hb']
          exact .inr (.inr ⟨_, _, rfl⟩)

/-- A failed sample without a fault: the poll goes on, or its cleanup begins. -/
theorem pollFailed_unharmed {w : Wait} {c : Option Nat} {s : State} (hf : (pollFailed w c s).fault = none) :
    pollFailed w c s = { s with polls := s.polls + 1 } ∨ ∃ k, c = some k ∧ pollFailed w c s = jumpTo k s := by
  unfold pollFailed at hf ⊢
  split
  · exact .inl rfl
  · next hlimit =>
    simp only [hlimit] at hf
    split
    · next hle =>
      rw [if_pos hle] at hf
      rcases timeOut_cases w c s with ⟨k, hc, e⟩ | ⟨_, e⟩
      · exact .inr ⟨k, hc, e⟩
      · rw [e] at hf
        cases hf
    · exact .inl rfl

/-! ### BUSACK -/

/-- BUSACK is read from the target: de-asserted means granted (R44). -/
theorem Good.sensed_busack {s : State} (hs : Good s) : sensed s .busack = s.target.ownsBus := by
  have hpins := hs.params.1
  obtain ⟨_, _, hport, _⟩ := hs.params.1
  have hinput : isOutput s (s.cfg.pins.pin .busack) = false := hs.roles.2 .busack (by decide)
  have hwire : targetWire s (s.cfg.pins.pin .busack) = .drives (targetLevel s .busack) := by
    have hne {g : Signal} (hg : g ≠ .busack) : (s.cfg.pins.pin g == s.cfg.pins.pin .busack) = false := by
      simpa using PinMap.WellFormed.pin_ne hpins hg
    have hport' : (s.cfg.pins.pin .busack).port = .dataHi := hport
    have hfind : targetSignals.find? (fun g => s.cfg.pins.pin g == s.cfg.pins.pin .busack) = some .busack := by
      simp [targetSignals, hne]
    unfold targetWire
    rw [hport']
    simp only [hfind]
  have hlevel : pinLevel s (s.cfg.pins.pin .busack) = levelOf s.cfg .busack s.target.ownsBus := by
    unfold pinLevel
    rw [hinput, hwire]
    rfl
  unfold sensed
  rw [hlevel]
  cases s.target.ownsBus <;> simp [levelOf]

/-! ### Lines -/

section
variable {i : Instr} {k : Nat} {l : ProgLine} {s : State}

/-- The cleanup of a poll begins: the bus is not granted (R100). -/
theorem Good.cleanup {g : Signal} {want : Bool} {w : Wait} {c : Nat} (hs : Good s) (hq : s.seq = .running i k)
    (hm : l.micro = .poll g want w (some c)) (hcheck : jumpChecked i k l = true)
    (howns : g = .busack → want = false → s.target.ownsBus = true) :
    KeepsGood s (jumpTo c s) := by
  simp only [jumpChecked, hm, Bool.and_eq_true, beq_iff_eq, Bool.not_eq_true', sameModes,
    Option.isNone_iff_eq_none] at hcheck
  obtain ⟨⟨⟨rfl, rfl⟩, ⟨⟨⟨⟨hslow, hslow'⟩, hcomparing⟩, henabling⟩, hdisabling⟩, hswitching⟩, hleads⟩ := hcheck
  have hq' : (jumpTo c s).seq = .running i c := by simp [jumpTo, hq]
  refine hs.jump (accessed_of_sameHardware ⟨rfl, rfl, rfl, rfl, rfl⟩ rfl) ⟨rfl, rfl, rfl, rfl, rfl⟩ ?_ ?_ <;>
    rw [hq, hq']
  · rw [howns rfl rfl]
    exact leads_sound (all_owners hleads s.own)
  · exact ⟨⟨hcomparing, henabling, hdisabling, hswitching⟩, hslow'.trans hslow.symm⟩

/-- A line that is no poll with a cleanup does not wait for the grant. -/
theorem not_waiting (hcheck : jumpChecked i k l = true) (hm : ∀ g want w c, l.micro ≠ .poll g want w (some c)) :
    takeAt (.running i k) ≠ some 1 := by
  unfold jumpChecked at hcheck
  split at hcheck
  · next e => exact absurd e (hm _ _ _ _)
  · split at hcheck
    · exact fun h => nomatch h
    · cases hcheck
  · rw [Bool.and_eq_true] at hcheck
    simpa using hcheck.1
  · simpa using hcheck

theorem jumpChecked_of_program {c : Params} (hl : (programOf c i)[k]? = some l) : jumpChecked i k l = true := by
  have hcheck := lineChecked_of_program hl
  simp only [lineChecked, Bool.and_eq_true] at hcheck
  obtain ⟨⟨⟨_, hjump⟩, _⟩, _⟩ := hcheck
  exact hjump

theorem flags_of_access {p : Prim} {m : Micro} (h : accessOf m = some p) (own : BusOwnership) (arm : StepArm)
    (mode : ClockMode) :
    ownAfter m own = own ∧ armAfter m arm = arm ∧ modeAfter m mode = mode ∧ leaves m = false := by
  cases m <;> first | exact ⟨rfl, rfl, rfl, rfl⟩ | cases h

theorem perform_flagsStay (p : Prim) (s : State) : FlagsStay s (perform p s) :=
  have h := perform_kept p s
  ⟨h.own, h.arm, h.clockMode, h.fault, h.killed⟩

/-- The invariant along a line whose access has been made. -/
theorem Good.performed {p : Prim} {t : State} (hs : Good s) (hq : s.seq = .running i k)
    (hl : (programOf s.cfg i)[k]? = some l) (hacc : accessOf l.micro = some p)
    (hsame : SameHardware (perform p s) t) (htrace : t.trace = (perform p s).trace) (hseq : t.seq = placeAfter i k l)
    (hflags : FlagsStay s t) (hgrant : takeAt (.running i k) = some 1 → s.target.ownsBus = false) : KeepsGood s t := by
  obtain ⟨hown, harm, hmode, hleaves⟩ := flags_of_access hacc s.own s.arm s.clockMode
  have hp : Programmed p := programOf_programmed s.cfg i l (List.mem_of_getElem? hl) p hacc
  refine hs.line hq hl ?_ hleaves hgrant
  exact {
    accessed := by rw [hacc]; exact (perform_accessed hs.params.1 hp).then_same hsame htrace
    seq := hseq
    own := by rw [hown, hflags.own]
    arm := by rw [harm, hflags.arm]
    mode := by rw [hmode, hflags.mode]
    fault := hflags.fault
    killed := hflags.killed }

theorem advance_seq {t : State} (ht : t.seq = .running i k) : (advance k l t).seq = placeAfter i k l := by
  simp [advance, jumpTo, ht, placeAfter]

/-- The invariant along a line that performs its access and goes on. -/
theorem Good.advance_perform {p : Prim} (hs : Good s) (hq : s.seq = .running i k)
    (hl : (programOf s.cfg i)[k]? = some l) (hacc : accessOf l.micro = some p)
    (hgrant : takeAt (.running i k) = some 1 → s.target.ownsBus = false) :
    KeepsGood s (advance k l (perform p s)) :=
  have h := perform_flagsStay p s
  hs.performed hq hl hacc ⟨rfl, rfl, rfl, rfl, rfl⟩ rfl (advance_seq ((perform_kept p s).seq.trans hq))
    ⟨h.own, h.arm, h.mode, h.fault, h.killed⟩ hgrant

/-- The invariant along a cancellation at a boundary of the line. -/
theorem Good.cancelled (hs : Good s) (hq : s.seq = .running i k) (hl : (programOf s.cfg i)[k]? = some l)
    (hm : ∀ m, l.micro ≠ .mode m) (hc : cancellable s.seq = true) : KeepsGood s (Machine.takeCancel s) := by
  refine hs.takeCancel hc fun r e => ?_
  rw [hq] at e
  cases e
  obtain rfl := Option.some.inj hl
  exact hm _ rfl

/-- The invariant along a sample that a poll makes. -/
theorem Good.sample {g : Signal} (hs : Good s) : KeepsGood s (perform (.sample g) s) :=
  hs.stay (perform_accessed (p := .sample g) hs.params.1 trivial).of_sample (perform_flagsStay _ s) (perform_kept _ s).seq

theorem Good.iocFlag {g : Signal} (hs : Good s) : KeepsGood s (perform (.iocFlag g) s) := by
  refine hs.stay ?_ (perform_flagsStay _ s) rfl
  refine .of_registers_eq rfl rfl rfl rfl rfl rfl rfl rfl id fun k hk => ?_
  simpa [eventOf] using hk

/-- Only the count of failed samples changes. -/
theorem Good.polls (hs : Good s) (n : Nat) : KeepsGood s { s with polls := n } :=
  hs.stay (accessed_of_sameHardware ⟨rfl, rfl, rfl, rfl, rfl⟩ rfl) ⟨rfl, rfl, rfl, rfl, rfl⟩ rfl

/-- The invariant along a poll's sample and what follows it. -/
theorem Good.polled {g : Signal} {want : Bool} {w : Wait} {c : Option Nat} (hs : Good s) (hq : s.seq = .running i k)
    (hl : (programOf s.cfg i)[k]? = some l) (hm : l.micro = .poll g want w c)
    (hf : (if sensed s g = want then advance k l (perform (.sample g) s)
      else pollFailed w c (perform (.sample g) s)).fault = none) :
    KeepsGood s (if sensed s g = want then advance k l (perform (.sample g) s)
      else pollFailed w c (perform (.sample g) s)) := by
  have hcheck := jumpChecked_of_program hl
  split at hf
  · next hsensed =>
    rw [if_pos hsensed]
    refine hs.advance_perform hq hl (by rw [hm]; rfl) fun htake => ?_
    cases c with
    | none => exact absurd htake (not_waiting hcheck (by simp [hm]))
    | some c =>
      simp only [jumpChecked, hm, Bool.and_eq_true, beq_iff_eq, Bool.not_eq_true'] at hcheck
      obtain ⟨⟨⟨rfl, rfl⟩, _⟩, _⟩ := hcheck
      rwa [hs.sensed_busack] at hsensed
  · next hsensed =>
    rw [if_neg hsensed]
    have hsample := hs.sample (g := g)
    rcases pollFailed_unharmed hf with e | ⟨c', rfl, e⟩ <;> rw [e]
    · exact hsample.trans (hsample.1.polls _)
    · have hq' : (perform (.sample g) s).seq = .running i k := (perform_kept _ s).seq.trans hq
      refine hsample.trans (hsample.1.cleanup hq' hm hcheck ?_)
      rintro rfl rfl
      rw [(perform_kept _ s).ownsBus, ← hs.sensed_busack]
      simpa using hsensed

/-- The invariant along the poll of the latch (R145). -/
theorem Good.polledFlag (hs : Good s) (hq : s.seq = .running i k) (hl : (programOf s.cfg i)[k]? = some l)
    (hm : l.micro = .pollFlag)
    (hf : (if flagLatched s .m1 then advance k l (perform (.iocFlag .m1) s)
      else pollFailed .flagWait none (perform (.iocFlag .m1) s)).fault = none) :
    KeepsGood s (if flagLatched s .m1 then advance k l (perform (.iocFlag .m1) s)
      else pollFailed .flagWait none (perform (.iocFlag .m1) s)) := by
  split at hf
  · next hlatched =>
    rw [if_pos hlatched]
    exact hs.advance_perform hq hl (by rw [hm]; rfl)
      fun htake => absurd htake (not_waiting (jumpChecked_of_program hl) (by simp [hm]))
  · next hlatched =>
    rw [if_neg hlatched]
    have hflag := hs.iocFlag (g := .m1)
    rcases pollFailed_unharmed hf with e | ⟨_, hc, _⟩
    · rw [e]
      exact hflag.trans (hflag.1.polls _)
    · cases hc

/-- The invariant along a line that makes no access: an assignment, or the end of a sleep. -/
theorem Good.assigned {t : State} (hs : Good s) (hq : s.seq = .running i k) (hl : (programOf s.cfg i)[k]? = some l)
    (hacc : accessOf l.micro = none) (hleaves : leaves l.micro = false) (ha : Accessed none s t)
    (hseq : t.seq = placeAfter i k l) (hown : t.own = ownAfter l.micro s.own) (harm : t.arm = armAfter l.micro s.arm)
    (hmode : t.clockMode = modeAfter l.micro s.clockMode) (hfault : t.fault = s.fault) (hkilled : t.killed = s.killed) :
    KeepsGood s t := by
  refine hs.line hq hl ⟨by rwa [hacc], hseq, hown, harm, hmode, hfault, hkilled⟩ hleaves fun htake => ?_
  refine absurd htake (not_waiting (jumpChecked_of_program hl) fun _ _ _ _ e => ?_)
  rw [e] at hacc
  cases hacc

/-- The event of a sleep and the time it takes are nothing that the invariants look at. -/
theorem slept_accessed (e : Quantity) (b : Bool) (now : Quantity) (s : State) :
    Accessed none s (emit (.sleep e b) { s with now := now }) := by
  refine .of_registers_eq rfl rfl rfl rfl rfl rfl rfl rfl id fun g hg => ?_
  simpa [emit] using hg

/-- The boundary before line `k` keeps the invariant, and the sequencer stays at that line. -/
theorem Good.atBoundary (hs : Good s) (hq : s.seq = .running i k) (hl : (programOf s.cfg i)[k]? = some l) :
    KeepsGood s (Machine.boundary s).1 ∧ (Machine.boundary s).1.seq = .running i k ∧
      (programOf (Machine.boundary s).1.cfg i)[k]? = some l :=
  ⟨hs.boundary, (boundary_kept s).seq.trans hq, by rwa [(boundary_kept s).cfg]⟩

/-- A line that is a sleep makes no access and leaves the flags. -/
theorem sleep_plain (h : isSleep l.micro = true) (own : BusOwnership) (arm : StepArm) (mode : ClockMode) :
    accessOf l.micro = none ∧ leaves l.micro = false ∧ ownAfter l.micro own = own ∧ armAfter l.micro arm = arm ∧
      modeAfter l.micro mode = mode := by
  cases hm : l.micro <;> rw [hm] at h <;> first | exact ⟨rfl, rfl, rfl, rfl, rfl⟩ | cases h

/-- The invariant along the end of a sleep that has run its time. -/
theorem Good.slept (hs : Good s) (hq : s.seq = .running i k) (hl : (programOf s.cfg i)[k]? = some l)
    (hsleep : isSleep l.micro = true) (e now : Quantity) :
    KeepsGood s (advance k l (emit (.sleep e false) { s with now := now })) := by
  obtain ⟨hacc, hleaves, hown, harm, hmode⟩ := sleep_plain hsleep s.own s.arm s.clockMode
  refine hs.assigned hq hl hacc hleaves ?_ (advance_seq hq) hown.symm harm.symm hmode.symm rfl rfl
  exact (slept_accessed e false now s).then_same ⟨rfl, rfl, rfl, rfl, rfl⟩ rfl

/-- The invariant along a cancellation inside a sleep. -/
theorem Good.sleepCut (hs : Good s) (hq : s.seq = .running i k) (hl : (programOf s.cfg i)[k]? = some l)
    (hm : ∀ m, l.micro ≠ .mode m) (hc : cancellable s.seq = true) (e : Quantity) :
    KeepsGood s (Machine.takeCancel (emit (.sleep e true) s)) := by
  have hcut : KeepsGood s (emit (.sleep e true) s) :=
    hs.stay (slept_accessed e true s.now s) ⟨rfl, rfl, rfl, rfl, rfl⟩ rfl
  exact hcut.trans (hcut.1.cancelled hq hl hm hc)

/-- The invariant along a sleep (R8, R192). -/
theorem Good.sleepFor {d : State → Quantity} (hs : Good s) (hq : s.seq = .running i k)
    (hl : (programOf s.cfg i)[k]? = some l) (hsleep : isSleep l.micro = true)
    (hk : (sleepFor d (advance k l) s).killed = false) :
    KeepsGood s (Machine.sleepFor d (advance k l) s) := by
  have hm : ∀ m, l.micro ≠ .mode m := fun m e => by
    rw [e] at hsleep
    cases hsleep
  obtain ⟨hbefore, hqb, hlb⟩ := hs.atBoundary hq hl
  obtain ⟨hinside, hqc, hlc⟩ := hbefore.1.atBoundary hqb hlb
  rcases sleepFor_unharmed hk with ⟨hc, e⟩ | ⟨hc, d', e⟩ | ⟨d', now, e⟩ <;> rw [e]
  · exact hbefore.trans (hbefore.1.cancelled hqb hlb hm hc)
  · exact (hbefore.trans hinside).trans (hinside.1.sleepCut hqc hlc hm hc d')
  · exact (hbefore.trans hinside).trans (hinside.1.slept hqc hlc hsleep d' now)

/-- The invariant along an access and what follows it. -/
theorem Good.access {p : Prim} {pos : Pos} {f : State → State} (hs : Good s) (hq : s.seq = .running i k)
    (hl : (programOf s.cfg i)[k]? = some l) (hm : ∀ m, l.micro ≠ .mode m)
    (hf : (access p pos f s).fault = none) (hk : (Machine.access p pos f s).killed = false)
    (hnext : ∀ b, Good b → b.seq = .running i k → (programOf b.cfg i)[k]? = some l → (f b).fault = none →
      KeepsGood b (f b)) : KeepsGood s (Machine.access p pos f s) := by
  obtain ⟨hb, hqb, hlb⟩ := hs.atBoundary hq hl
  rcases access_unharmed hf hk with ⟨hc, e⟩ | e
  · rw [e]
    exact hb.trans (hb.1.cancelled hqb hlb hm hc)
  · rw [e] at hf ⊢
    exact hb.trans (hnext _ hb.1 hqb hlb hf)

/-- The loop of `AUTOSTEP` ends (R146). -/
theorem Good.exitLoop {e : Nat} (hs : Good s) (hq : s.seq = .running i k) (hl : (programOf s.cfg i)[k]? = some l)
    (hm : l.micro = .whileArmed e) : KeepsGood s (jumpTo e s) := by
  have hcheck := jumpChecked_of_program hl
  simp only [jumpChecked, hm] at hcheck
  split at hcheck
  · next r =>
    simp only [Bool.and_eq_true, decide_eq_true_eq, beq_iff_eq] at hcheck
    obtain ⟨hk, rfl⟩ := hcheck
    have hq' : (jumpTo 5 s).seq = .running (.autostep r) 5 := by simp only [jumpTo, hq]
    refine hs.jump (accessed_of_sameHardware ⟨rfl, rfl, rfl, rfl, rfl⟩ rfl) ⟨rfl, rfl, rfl, rfl, rfl⟩ ?_ ?_ <;>
      rw [hq, hq']
    · exact (autostep_samePlace r k).leads _ _
    · exact autostep_sameModes r hk
  · cases hcheck

/-- THE INVARIANT ALONG A LINE, whatever happens at its boundaries. -/
theorem Good.doLine (hs : Good s) (hq : s.seq = .running i k) (hl : (programOf s.cfg i)[k]? = some l)
    (hf : (doLine k l s).fault = none) (hk : (Machine.doLine k l s).killed = false) :
    KeepsGood s (Machine.doLine k l s) := by
  unfold Machine.doLine at hf hk ⊢
  cases hm : l.micro with simp only [hm] at hf hk ⊢
  | prim p =>
    refine hs.access hq hl (by simp [hm]) hf hk fun b hb hqb hlb _ => ?_
    exact hb.advance_perform hqb hlb (by rw [hm]; rfl)
      fun htake => absurd htake (not_waiting (jumpChecked_of_program hl) (by simp [hm]))
  | readData =>
    refine hs.access hq hl (by simp [hm]) hf hk fun b hb hqb hlb _ => ?_
    have hflags := perform_flagsStay (.samplePort .dataLo) b
    exact hb.performed hqb hlb (by rw [hm]; rfl) ⟨rfl, rfl, rfl, rfl, rfl⟩ rfl
      (advance_seq ((perform_kept (.samplePort .dataLo) b).seq.trans hqb))
      ⟨hflags.own, hflags.arm, hflags.mode, hflags.fault, hflags.killed⟩
      fun htake => absurd htake (not_waiting (jumpChecked_of_program hl) (by simp [hm]))
  | poll g want w c =>
    exact hs.access hq hl (by simp [hm]) hf hk fun b hb hqb hlb hfb => hb.polled hqb hlb hm hfb
  | pollFlag => exact hs.access hq hl (by simp [hm]) hf hk fun b hb hqb hlb hfb => hb.polledFlag hqb hlb hm hfb
  | sleep d | pace d => exact hs.sleepFor hq hl (by rw [hm]; rfl) hk
  | stampT0 | own o | mode m | disarmed =>
    exact hs.assigned hq hl (by rw [hm]; rfl) (by rw [hm]; rfl)
      (accessed_of_sameHardware ⟨rfl, rfl, rfl, rfl, rfl⟩ rfl) (advance_seq hq) (by rw [hm]; rfl) (by rw [hm]; rfl)
      (by rw [hm]; rfl) rfl rfl
  | fail e => cases hf
  | armed =>
    rw [settle_unharmed hk]
    obtain ⟨hb, hqb, hlb⟩ := hs.atBoundary hq hl
    exact hb.trans (hb.1.assigned hqb hlb (by rw [hm]; rfl) (by rw [hm]; rfl)
      (accessed_of_sameHardware ⟨rfl, rfl, rfl, rfl, rfl⟩ rfl) (advance_seq hqb) (by rw [hm]; rfl) (by rw [hm]; rfl)
      (by rw [hm]; rfl) rfl rfl)
  | whileArmed e =>
    split
    · exact hs.assigned hq hl (by rw [hm]; rfl) (by rw [hm]; rfl)
        (accessed_of_sameHardware ⟨rfl, rfl, rfl, rfl, rfl⟩ rfl) (advance_seq hq) (by rw [hm]; rfl) (by rw [hm]; rfl)
        (by rw [hm]; rfl) rfl rfl
    · exact hs.exitLoop hq hl hm
  | ret =>
    have hcheck := jumpChecked_of_program hl
    simp only [jumpChecked, hm, Bool.and_eq_true] at hcheck
    exact hs.opReturn hq hcheck.2

/-- THE INVARIANT ALONG A TICK. -/
theorem Good.tick (hs : Good s) (hq : s.seq = .running i k) (hf : (tick (programOf s.cfg i) s).fault = none)
    (hk : (Machine.tick (programOf s.cfg i) s).killed = false) :
    KeepsGood s (Machine.tick (programOf s.cfg i) s) := by
  cases hl : (programOf s.cfg i)[k]? with
  | some l =>
    rw [tick_line hq hl] at hf hk ⊢
    exact hs.doLine hq hl hf hk
  | none =>
    rw [tick_end hq hl]
    exact hs.opReturn hq (ended_of_past hl)

end

/-- Settles O56: each line of each program leads from the rows of the invariants' table to its rows, and boundaries,
cancellations, jumps and returns keep to it. -/
theorem goodKeptByTick : Obligations.GoodKeptByTick := by
  intro s i k hs hq hf hk
  exact hs.tick hq hf hk

end Sys2Proof.Machine
end

section
/-! The invariants of R30 over a step: a run of the operation in progress, or a request. -/

namespace Sys2Proof.Machine

/-! ### What a run keeps -/

/-- In a run the operation in progress stays the same one, and a fault or a kill stays on record. -/
structure RunStays (s t : State) : Prop where
  cfg : t.cfg = s.cfg
  seq : SameOperation s.seq t.seq
  fault : s.fault ≠ none → t.fault ≠ none
  killed : s.killed = true → t.killed = true

theorem RunStays.of_eq {s t : State} (hcfg : t.cfg = s.cfg) (hseq : t.seq = s.seq) (hfault : t.fault = s.fault)
    (hkilled : t.killed = s.killed) : RunStays s t :=
  ⟨hcfg, hseq ▸ .refl _, by rw [hfault]; exact id, by rw [hkilled]; exact id⟩

theorem runStays_law : RunLaw RunStays where
  trans h k := ⟨k.cfg.trans h.cfg, h.seq.trans k.seq, fun x => k.fault (h.fault x), fun x => k.killed (h.killed x)⟩
  control h := ⟨h.cfg, h.seq, h.fault, h.killed⟩
  env h := .of_eq h.cfg h.seq h.fault h.killed
  write _ :=
    have h := applyWrite_kept _ _
    .of_eq h.cfg h.seq h.fault h.killed
  touch _ _ := .of_eq rfl rfl rfl rfl

/-- What is without fault and kill after a tick was so before it. -/
theorem tick_unharmed {c : Params} {i : Instr} {s : State} (hf : (tick (programOf c i) s).fault = none)
    (hk : (tick (programOf c i) s).killed = false) : s.fault = none ∧ s.killed = false := by
  have h := runStays_law.tick (programOf_programmed c i) s
  refine ⟨not_not.mp fun hne => h.fault hne hf, ?_⟩
  rw [Bool.eq_false_iff]
  intro ht
  rw [h.killed ht] at hk
  cases hk

/-- THE INVARIANT ALONG A RUN of the operation in progress. -/
theorem Good.runOp {s : State} (hs : Good s) {i : Instr} {k : Nat} (hq : s.seq = .running i k)
    (hf : (runOp (programOf s.cfg i) s).fault = none) (hk : (Machine.runOp (programOf s.cfg i) s).killed = false) :
    KeepsGood s (Machine.runOp (programOf s.cfg i) s) := by
  have hrun : RunStays s (Machine.runOp (programOf s.cfg i) s) ∧
      ((Machine.runOp (programOf s.cfg i) s).fault = none → (Machine.runOp (programOf s.cfg i) s).killed = false →
        KeepsGood s (Machine.runOp (programOf s.cfg i) s)) := by
    refine runProg_induct
      (P := fun u => RunStays s u ∧ (u.fault = none → u.killed = false → KeepsGood s u)) ?_ _
      ⟨runStays_law.refl s, fun _ _ => hs.keepsGood_refl⟩
    rintro u j m hu ⟨hstays, hgood⟩
    refine ⟨runStays_law.trans hstays (runStays_law.tick (programOf_programmed _ _) u), fun hf hk => ?_⟩
    obtain ⟨hf', hk'⟩ := tick_unharmed hf hk
    have hu' := hgood hf' hk'
    obtain rfl : j = i := by
      have h := hstays.seq
      rw [hq, hu] at h
      rcases h with h | ⟨_, _, _, h, h'⟩
      · cases h
      · cases h
        cases h'
        rfl
    rw [← hstays.cfg] at hf hk ⊢
    exact hu'.trans (hu'.1.tick hu hf hk)
  exact hrun.2 hf hk

/-! ### An operation begins -/

/-- The preconditions of R72, by operation. -/
def allowed (s : State) : Instr → Bool
  | .memRead _ | .memWrite _ _ | .ioRead _ | .ioWrite _ _ | .bankSelect _ => acquired s
  | .normalClock => mayNormalClock s
  | .slowClock _ => maySlowClock s
  | .singlestepOn => maySinglestepOn s
  | .stepWait | .m1ReleaseWait => isArmed s
  | .reset | .takeBus | .takeBusBank _ | .releaseBus _ | .singlestepOff | .autostep _ | .latchAddress _ => true

theorem exec_eq_issue (i : Instr) (s : State) : exec i s = issue i (allowed s i) (programOf s.cfg i) s := by
  cases i <;> rfl

/-- An operation that runs was allowed (R72, R187). -/
theorem allowed_of_exec {i : Instr} {s t : State} (h : exec i s = .next t) : allowed s i = true := by
  rw [exec_eq_issue] at h
  rcases issue_cases i (allowed s i) (programOf s.cfg i) s with
    ⟨_, _, _, e⟩ | ⟨_, _, e⟩ | ⟨_, _, ha, _⟩ | ⟨_, _, _, e⟩
  · rw [e] at h; cases h
  · rw [e] at h; cases h
  · exact ha
  · rw [e] at h; cases h

section
variable {s : State} {i : Instr}

theorem clockSafe_beginOp (hs : Good s) (hq : s.seq = .idle) (ha : allowed s i = true) : clockSafe (beginOp i s) := by
  obtain ⟨hmode, hclken⟩ := hs.clock.1 (by rw [hq]; rfl)
  by_cases hi : ∃ r, i = .slowClock r
  · obtain ⟨r, rfl⟩ := hi
    simp only [allowed, maySlowClock, Bool.and_eq_true, beq_iff_eq] at ha
    obtain ⟨⟨harm, hfree⟩, _⟩ := ha
    refine (clockSafe_slow_iff (s := beginOp (.slowClock r) s) (clken := true) rfl hclken).mpr ⟨harm, ?_⟩
    simp [ClockRow, hfree]
  · push Not at hi
    exact ⟨fun _ => ⟨hmode, hclken⟩, fun p hp => by rw [beginOp_seq, slowAt_none hi] at hp; cases hp⟩

theorem armSafe_beginOp (hs : Good s) (hq : s.seq = .idle) (ha : allowed s i = true) : armSafe (beginOp i s) := by
  obtain ⟨hiff, hcmp, hen, _⟩ := (armSafe_iff s).mp hs.arming
  rw [hq] at hcmp hen
  have hstart : comparing (.running i 0) = false ∧ enabling (.running i 0) = false ∧
      disabling (.running i 0) = false := by
    cases i <;> exact ⟨rfl, rfl, rfl⟩
  obtain ⟨hcomparing, henabling, hdisabling⟩ := hstart
  refine (armSafe_iff (beginOp i s)).mpr ⟨hiff, fun h => hcmp (.inl (by simpa [hcomparing] using h)), ?_, fun h => ?_⟩
  · rw [beginOp_seq, henabling, hdisabling]
    exact hen
  · cases i with
    | normalClock =>
      simp only [allowed, mayNormalClock, Bool.and_eq_true, beq_iff_eq] at ha
      exact ha.1
    | _ => cases h

end

/-- The bus's rows lead from the idle sequencer to an operation that R72 allows. -/
theorem leads_beginOp {own : BusOwnership} {i : Instr} {target : Bool}
    (ho : (writeAt (.running i 0)).isSome = true ∨ (readAt (.running i 0)).isSome = true → own = .acquired) :
    Leads none own own .idle (.running i 0) target := by
  cases i with
  | memRead | ioRead | memWrite | ioWrite | bankSelect =>
    obtain rfl := ho (by simp [writeAt, readAt])
    cases target <;> exact leads_sound rfl
  | releaseBus r => cases r <;> cases own <;> cases target <;> exact leads_sound rfl
  | reset | takeBus | takeBusBank | normalClock | slowClock | singlestepOn | singlestepOff | autostep | stepWait
    | m1ReleaseWait | latchAddress => cases own <;> cases target <;> exact leads_sound rfl

/-- A cycle is allowed with the bus Acquired alone (R111). -/
theorem acquired_of_cycle {s : State} {i : Instr} (ha : allowed s i = true)
    (hi : (writeAt (.running i 0)).isSome = true ∨ (readAt (.running i 0)).isSome = true) : s.own = .acquired := by
  cases i with
  | memRead | ioRead | memWrite | ioWrite | bankSelect => simpa [allowed, acquired] using ha
  | _ => simp [writeAt, readAt] at hi

/-- THE INVARIANT ALONG THE BEGINNING OF AN OPERATION that R72 allows. -/
theorem Good.beginOp {s : State} {i : Instr} (hs : Good s) (hq : s.seq = .idle) (ha : allowed s i = true) :
    KeepsGood s (beginOp i s) := by
  refine hs.along (accessed_of_sameHardware ⟨rfl, rfl, rfl, rfl, rfl⟩ rfl) hs.noFault hs.alive ?_
    (clockSafe_beginOp hs hq ha) (armSafe_beginOp hs hq ha)
  rw [hq]
  exact leads_beginOp (acquired_of_cycle ha)

theorem Good.exec {s t : State} {i : Instr} (hs : Good s) (h : exec i s = .next t) (hf : t.fault = none)
    (hk : t.killed = false) : KeepsGood s t := by
  obtain ⟨_, hq, rfl⟩ := exec_next h
  have hbegin := hs.beginOp hq (allowed_of_exec h)
  exact hbegin.trans (hbegin.1.runOp rfl hf hk)

/-! ### A request -/

/-- Bookkeeping is nothing that the invariants look at. -/
theorem Good.bookkeeping {s t : State} (hs : Good s) (h : Bookkeeping s t) : KeepsGood s t := by
  refine hs.stay (accessed_of_sameHardware h.control.toSameHardware h.trace) ?_ ?_
  · constructor <;> rw [h]
  · rw [h]

/-- The invariant along a sample of INT by `showint`, outside every operation (R173). -/
theorem Good.showIntTurn {s : State} {last : Option Bool} (hs : Good s) (hq : s.seq = .idle)
    (hf : (showIntTurn last s).fault = none) (hk : (Machine.showIntTurn last s).killed = false) :
    KeepsGood s (Machine.showIntTurn last s) := by
  unfold Machine.showIntTurn at hf hk ⊢
  have hb := hs.boundary
  have hidle : (Machine.boundary s).1.seq = .idle := (boundary_kept s).seq.trans hq
  rcases access_unharmed hf hk with ⟨hc, _⟩ | e
  · rw [hidle] at hc
    cases hc
  · rw [e]
    have hsample := hb.1.sample (g := .int)
    refine (hb.trans hsample).trans (hsample.1.bookkeeping ?_)
    dsimp only
    split <;> rfl

theorem Good.requestTurn {s t : State} (hs : Good s) (hq : s.seq = .idle) (h : RequestTurn s t) (hf : t.fault = none)
    (hk : t.killed = false) : KeepsGood s t := by
  cases h with
  | issued i run before =>
    have hbefore := hs.bookkeeping before
    exact hbefore.trans (hbefore.1.exec run hf hk)
  | noted note => exact hs.bookkeeping note
  | environment => exact hs.boundary
  | waited before =>
    have hbefore := hs.bookkeeping before
    unfold waitForUser at hk ⊢
    rw [settle_unharmed hk]
    exact hbefore.trans hbefore.1.boundary
  | sampledInt last before =>
    have hbefore := hs.bookkeeping before
    exact hbefore.trans (hbefore.1.showIntTurn (by rw [before]; exact hq) hf hk)

/-- Settles O57: a step is a run of ticks, or serves a request, which comes down to bookkeeping and at most one operation,
boundary or sample. -/
theorem goodKeptByStep : Obligations.GoodKeptByStep := by
  intro s t hs hstep hf hk
  rcases step_cases hstep with ⟨i, k, hq, rfl⟩ | ⟨hq, hturn⟩
  · exact hs.runOp hq hf hk
  · exact hs.requestTurn hq hturn hf hk

end Sys2Proof.Machine
end

section
/-! The rows of R64 by fields: which fields of a word a command's row fixes and which are free, and what the free ones
spell. -/

namespace Sys2Proof

/-! ### A word is its fields -/

/-- The five fields of R63 make up the whole word. -/
theorem toNat_eq_fields (w : Word) :
    w.toNat = (byteField w).toNat + 2 ^ 8 * (hwField w).toNat + 2 ^ 24 * (reservedField w).toNat +
      2 ^ 27 * (flagField w).toNat + 2 ^ 28 * (opField w).toNat := by
  simp only [byteField, hwField, reservedField, flagField, opField, BitVec.extractLsb'_toNat, Nat.shiftRight_eq_div_pow]
  omega

theorem word_eq_iff_fields {w v : Word} :
    w = v ↔ opField w = opField v ∧ flagField w = flagField v ∧ reservedField w = reservedField v ∧
      hwField w = hwField v ∧ byteField w = byteField v := by
  refine ⟨fun h => by simp [h], fun ⟨hop, hflag, hres, hhw, hbyte⟩ => ?_⟩
  apply BitVec.eq_of_toNat_eq
  rw [toNat_eq_fields w, toNat_eq_fields v, hop, hflag, hres, hhw, hbyte]

theorem opField_and (w m : Word) : opField (w &&& m) = opField w &&& opField m := BitVec.extractLsb'_and

theorem flagField_and (w m : Word) : flagField (w &&& m) = flagField w &&& flagField m := BitVec.extractLsb'_and

theorem reservedField_and (w m : Word) : reservedField (w &&& m) = reservedField w &&& reservedField m :=
  BitVec.extractLsb'_and

theorem hwField_and (w m : Word) : hwField (w &&& m) = hwField w &&& hwField m := BitVec.extractLsb'_and

theorem byteField_and (w m : Word) : byteField (w &&& m) = byteField w &&& byteField m := BitVec.extractLsb'_and

theorem flagField_cases (w : Word) : flagField w = 0#1 ∨ flagField w = 1#1 := by
  generalize flagField w = f
  revert f
  decide

/-! ### The fields that a row leaves free -/

/-- The flag is an operand (R64). -/
def flagFree : Instr → Bool
  | .releaseBus _ => true
  | _ => false

/-- The halfword is an operand (R64). -/
def halfwordFree : Instr → Bool
  | .memRead _ | .memWrite _ _ | .ioRead _ | .ioWrite _ _ | .slowClock _ | .autostep _ | .latchAddress _ => true
  | _ => false

/-- The byte is an operand (R64). -/
def byteFree : Instr → Bool
  | .takeBusBank _ | .memWrite _ _ | .ioWrite _ _ | .bankSelect _ => true
  | _ => false

/-- The flag of a row that fixes it: it tells the two forms of `TAKE_BUS` apart (R64). -/
def rowFlag : Instr → BitVec 1
  | .takeBusBank _ => 1#1
  | _ => 0#1

/-- The word has the fields that the row of `i` fixes. -/
structure InRow (w : Word) (i : Instr) : Prop where
  op : (opField w).toNat = ordinal i
  reserved : reservedField w = 0#3
  flag : flagFree i = false → flagField w = rowFlag i
  halfword : halfwordFree i = false → hwField w = 0#16
  byte : byteFree i = false → byteField w = 0#8

/-- The operands of `i` are what the free fields of the word spell, and a rate field is not 0 (R63, R71). -/
def Operands (w : Word) : Instr → Prop
  | .takeBusBank b | .bankSelect b => b = (byteField w).toNat
  | .releaseBus r => r = (flagField w == 1#1)
  | .memRead a | .ioRead a | .latchAddress a => a = (hwField w).toNat
  | .memWrite a d | .ioWrite a d => a = (hwField w).toNat ∧ d = (byteField w).toNat
  | .slowClock r | .autostep r => r = ((hwField w).toNat : Quantity) ∧ hwField w ≠ 0#16
  | _ => True

/-! ### The table of match and mask, by fields -/

theorem ordinal_lt (i : Instr) : ordinal i < 2 ^ 4 := by
  cases i <;> simp [ordinal]

theorem rowMatch_eq_pack (i : Instr) : rowMatch i = pack (BitVec.ofNat 4 (ordinal i)) (rowFlag i) 0#16 0#8 := by
  cases i <;> simp only [rowMatch, ordinal, rowFlag] <;> decide

theorem opField_rowMask (i : Instr) : opField (rowMask i) = BitVec.allOnes 4 := by
  cases i <;> simp only [rowMask] <;> rfl

theorem reservedField_rowMask (i : Instr) : reservedField (rowMask i) = BitVec.allOnes 3 := by
  cases i <;> simp only [rowMask] <;> rfl

theorem flagField_rowMask (i : Instr) : flagField (rowMask i) = if flagFree i then 0#1 else BitVec.allOnes 1 := by
  cases i <;> simp only [rowMask, flagFree] <;> rfl

theorem hwField_rowMask (i : Instr) : hwField (rowMask i) = if halfwordFree i then 0#16 else BitVec.allOnes 16 := by
  cases i <;> simp only [rowMask, halfwordFree] <;> rfl

theorem byteField_rowMask (i : Instr) : byteField (rowMask i) = if byteFree i then 0#8 else BitVec.allOnes 8 := by
  cases i <;> simp only [rowMask, byteFree] <;> rfl

/-- A free field is masked out, and its match is 0; a fixed one is compared. -/
theorem and_ite_eq_iff {n : Nat} {free : Bool} {x v : BitVec n} (hv : free = true → v = 0#n) :
    (x &&& if free then 0#n else BitVec.allOnes n) = v ↔ (free = false → x = v) := by
  cases free with
  | true => simp [hv rfl]
  | false => simp

theorem rowFlag_of_flagFree {i : Instr} (h : flagFree i = true) : rowFlag i = 0#1 := by
  cases i with
  | takeBusBank _ => cases h
  | _ => rfl

/-- Match and mask say which fields a row fixes (R64). -/
theorem rowMatch_iff_inRow (w : Word) (i : Instr) : w &&& rowMask i = rowMatch i ↔ InRow w i := by
  have hop : opField w = BitVec.ofNat 4 (ordinal i) ↔ (opField w).toNat = ordinal i := by
    rw [← BitVec.toNat_inj, BitVec.toNat_ofNat, Nat.mod_eq_of_lt (ordinal_lt i)]
  rw [word_eq_iff_fields, rowMatch_eq_pack, opField_and, flagField_and, reservedField_and, hwField_and, byteField_and,
    opField_rowMask, flagField_rowMask, reservedField_rowMask, hwField_rowMask, byteField_rowMask, opField_pack,
    flagField_pack, reservedField_pack, hwField_pack, byteField_pack, BitVec.and_allOnes, BitVec.and_allOnes, hop,
    and_ite_eq_iff rowFlag_of_flagFree, and_ite_eq_iff fun _ => rfl, and_ite_eq_iff fun _ => rfl]
  exact ⟨fun ⟨hop, hflag, hres, hhw, hbyte⟩ => ⟨hop, hres, hflag, hhw, hbyte⟩,
    fun h => ⟨h.op, h.flag, h.reserved, h.halfword, h.byte⟩⟩

/-- Only `RELEASE_BUS` has the flag as an operand. -/
theorem flagFree_iff_ordinal (i : Instr) : flagFree i = true ↔ ordinal i = 2 := by
  cases i <;> simp [flagFree, ordinal]

/-- The rows are disjoint: one word is in one row only. -/
theorem InRow.rowMatch_eq {w : Word} {i j : Instr} (hi : InRow w i) (hj : InRow w j) : rowMatch i = rowMatch j := by
  have hord : ordinal i = ordinal j := hi.op.symm.trans hj.op
  have hfree : flagFree i = flagFree j := by
    rw [Bool.eq_iff_iff, flagFree_iff_ordinal, flagFree_iff_ordinal, hord]
  have hflag : rowFlag i = rowFlag j := by
    cases h : flagFree i with
    | true => rw [rowFlag_of_flagFree h, rowFlag_of_flagFree (hfree ▸ h)]
    | false => rw [← hi.flag h, ← hj.flag (hfree ▸ h)]
  rw [rowMatch_eq_pack, rowMatch_eq_pack, hord, hflag]

/-! ### The decoder, by fields -/

/-- A rate form that is accepted has passed the check of its unused fields, and its rate is not 0 (R71). -/
theorem checkRate_command {w : Word} {f : Quantity → Instr} {j : Instr} (h : checkRate w f = .command j) :
    checkUnused w true false true (f ((hwField w).toNat : Quantity)) = .command j ∧ hwField w ≠ 0#16 := by
  unfold checkRate at h
  split at h
  · cases h
  · next c hc =>
    split at h
    · cases h
    · next hrate => exact ⟨hc.trans (congrArg Decoded.command (Decoded.command.inj h)), hrate⟩

theorem checkRate_ok {w : Word} {f : Quantity → Instr} {i : Instr} (hrate : hwField w ≠ 0#16)
    (h : checkUnused w true false true (f ((hwField w).toNat : Quantity)) = .command i) :
    checkRate w f = .command i := by
  simp [checkRate, h, hrate]

/-- A form whose unused fields pass the check is in its command's row; a flag that the row fixes is the one by which the
decoder chose the form, or an unused one. -/
theorem inRow_of_checkUnused {w : Word} {noFlag noHw noByte : Bool} {i j : Instr}
    (h : checkUnused w noFlag noHw noByte i = .command j) (hop : (opField w).toNat = ordinal i)
    (hflag : flagFree i = false → (noFlag = true → flagField w = 0#1) → flagField w = rowFlag i)
    (hoperands : Operands w i) (hfree : noHw = !halfwordFree i ∧ noByte = !byteFree i := by exact ⟨rfl, rfl⟩) :
    InRow w j ∧ Operands w j := by
  obtain ⟨rfl, hres, hunused, hhw, hbyte⟩ := checkUnused_command h
  obtain ⟨rfl, rfl⟩ := hfree
  exact ⟨⟨hop, hres, fun hf => hflag hf hunused, fun hf => hhw (by simp [hf]), fun hf => hbyte (by simp [hf])⟩,
    hoperands⟩

/-- A word that decodes is in the row of its command and spells its operands. -/
theorem inRow_of_decode {w : Word} {i : Instr} (h : decode w = .command i) : InRow w i ∧ Operands w i := by
  have hlt := (opField w).isLt
  unfold decode at h
  split at h
  case h_2 hop =>
    split at h
    · next hf => exact inRow_of_checkUnused h hop (fun _ _ => hf) rfl
    · next hf => exact inRow_of_checkUnused h hop (fun _ _ => (flagField_cases w).resolve_right hf) trivial
  case h_3 hop => exact inRow_of_checkUnused h hop nofun rfl
  case h_9 hop | h_12 hop =>
    obtain ⟨h, hrate⟩ := checkRate_command h
    exact inRow_of_checkUnused h hop (fun _ hf => hf rfl) ⟨rfl, hrate⟩
  case h_5 hop | h_7 hop => exact inRow_of_checkUnused h hop (fun _ hf => hf rfl) ⟨rfl, rfl⟩
  case h_4 hop | h_6 hop | h_15 hop => exact inRow_of_checkUnused h hop (fun _ hf => hf rfl) rfl
  case h_1 hop | h_8 hop | h_10 hop | h_11 hop | h_13 hop | h_14 hop =>
    exact inRow_of_checkUnused h hop (fun _ hf => hf rfl) trivial
  case h_16 =>
    have hop : (opField w).toNat = 15 := by
      simp only [imp_false] at *
      omega
    exact inRow_of_checkUnused h hop (fun _ hf => hf rfl) rfl

/-- A word in the row of a command passes the check of its unused fields. -/
theorem InRow.checkUnused_eq {w : Word} {noFlag noHw noByte : Bool} {i : Instr} (h : InRow w i)
    (hflag : noFlag = true → flagFree i = false ∧ rowFlag i = 0#1)
    (hfree : noHw = !halfwordFree i ∧ noByte = !byteFree i := by exact ⟨rfl, rfl⟩) :
    checkUnused w noFlag noHw noByte i = .command i := by
  obtain ⟨rfl, rfl⟩ := hfree
  refine checkUnused_ok h.reserved (fun hno => ?_) (fun hno => h.halfword (by simpa using hno))
    (fun hno => h.byte (by simpa using hno))
  obtain ⟨hfixed, hzero⟩ := hflag hno
  exact (h.flag hfixed).trans hzero

/-- A word in the row of a command that spells its operands decodes to the command. -/
theorem decode_of_inRow {w : Word} {i : Instr} (hrow : InRow w i) (hoperands : Operands w i) :
    decode w = .command i := by
  unfold decode
  rw [hrow.op]
  cases i with
  | takeBus => exact (if_neg (by simp [hrow.flag rfl, rowFlag])).trans (hrow.checkUnused_eq nofun)
  | takeBusBank b =>
    cases hoperands
    exact (if_pos (hrow.flag rfl)).trans (hrow.checkUnused_eq nofun)
  | releaseBus r =>
    cases hoperands
    exact hrow.checkUnused_eq nofun
  | memWrite a d | ioWrite a d =>
    obtain ⟨rfl, rfl⟩ := hoperands
    exact hrow.checkUnused_eq fun _ => ⟨rfl, rfl⟩
  | slowClock r | autostep r =>
    obtain ⟨rfl, hrate⟩ := hoperands
    exact checkRate_ok hrate (hrow.checkUnused_eq fun _ => ⟨rfl, rfl⟩)
  | memRead a | ioRead a | latchAddress a | bankSelect b =>
    cases hoperands
    exact hrow.checkUnused_eq fun _ => ⟨rfl, rfl⟩
  | reset | normalClock | singlestepOn | singlestepOff | stepWait | m1ReleaseWait =>
    exact hrow.checkUnused_eq fun _ => ⟨rfl, rfl⟩

/-- THE DECODER BY FIELDS: the fixed fields are the row's, and the free ones spell the operands (R63, R64, R71). -/
theorem decode_command_iff (w : Word) (i : Instr) : decode w = .command i ↔ InRow w i ∧ Operands w i :=
  ⟨inRow_of_decode, fun h => decode_of_inRow h.1 h.2⟩

/-! ### The encoder, by fields -/

/-- The rate that a halfword spells is encoded as the halfword. -/
theorem rateField_natCast (hw : Addr) : rateField (hw.toNat : Quantity) = hw := by
  simp [rateField]

theorem wholeRate_natCast {hw : Addr} (h : hw ≠ 0#16) : wholeRate (hw.toNat : Quantity) := by
  have hlt := hw.isLt
  have hpos : 0 < hw.toNat := Nat.pos_of_ne_zero fun h0 => h (BitVec.eq_of_toNat_eq h0)
  refine ⟨Rat.den_natCast _, ?_, ?_⟩ <;> rw [Rat.num_natCast] <;> omega

theorem toNat_rateField {r : Quantity} (h : wholeRate r) : ((rateField r).toNat : ℤ) = r.num := by
  obtain ⟨_, hpos, hlt⟩ := h
  rw [rateField, BitVec.toNat_ofNat]
  omega

/-- A whole rate is the rate that its halfword spells. -/
theorem eq_rateField_of_wholeRate {r : Quantity} (h : wholeRate r) : r = ((rateField r).toNat : Quantity) := by
  rw [← Int.cast_natCast, toNat_rateField h]
  exact (Rat.den_eq_one_iff r).mp h.1 |>.symm

theorem rateField_ne_zero {r : Quantity} (h : wholeRate r) : rateField r ≠ 0#16 := by
  have hnum := toNat_rateField h
  obtain ⟨_, hpos, _⟩ := h
  intro h0
  rw [h0] at hnum
  exact hpos.ne hnum

/-- The word of a command is in the command's row. -/
theorem inRow_encode (i : Instr) : InRow (encode i) i := by
  constructor
  case op => cases i <;> simp [encode, ordinal]
  case reserved => cases i <;> simp [encode]
  case flag => cases i <;> simp [encode, flagFree, rowFlag]
  case halfword => cases i <;> simp [encode, halfwordFree]
  case byte => cases i <;> simp [encode, byteFree]

/-- The free fields of the word of a command spell its operands. -/
theorem operands_encode {i : Instr} (hwf : i.WellFormed) (hpack : i.Packable) : Operands (encode i) i := by
  cases i with
  | takeBusBank b | bankSelect b => simp [Operands, encode, Nat.mod_eq_of_lt hwf]
  | releaseBus r => cases r <;> simp [Operands, encode]
  | memRead a | ioRead a | latchAddress a => simp [Operands, encode, Nat.mod_eq_of_lt hwf]
  | memWrite a d | ioWrite a d => simp [Operands, encode, Nat.mod_eq_of_lt hwf.1, Nat.mod_eq_of_lt hwf.2]
  | slowClock r | autostep r =>
    simp only [Operands, encode, hwField_pack]
    exact ⟨eq_rateField_of_wholeRate hpack, rateField_ne_zero hpack⟩
  | _ => trivial

/-- What the free fields of a word spell is in its domain, and has a packed form. -/
theorem wellFormed_of_operands {w : Word} {i : Instr} (h : Operands w i) : i.WellFormed ∧ i.Packable := by
  have hbyte := (byteField w).isLt
  have hhw := (hwField w).isLt
  cases i with
  | slowClock r | autostep r =>
    obtain ⟨rfl, hrate⟩ := h
    have hr := wholeRate_natCast hrate
    exact ⟨hr.2.1, hr⟩
  | memWrite a d | ioWrite a d =>
    obtain ⟨rfl, rfl⟩ := h
    exact ⟨⟨hhw, hbyte⟩, trivial⟩
  | takeBusBank b | bankSelect b | memRead a | ioRead a | latchAddress a =>
    cases h
    exact ⟨by assumption, trivial⟩
  | _ => exact ⟨trivial, trivial⟩

/-- Of the free fields, a word that spells the operands of a command has those of the command's word. -/
theorem free_fields_encode {w : Word} {i : Instr} (h : Operands w i) :
    (flagFree i = true → flagField (encode i) = flagField w) ∧
      (halfwordFree i = true → hwField (encode i) = hwField w) ∧
      (byteFree i = true → byteField (encode i) = byteField w) := by
  cases i with
  | slowClock r | autostep r =>
    obtain ⟨rfl, -⟩ := h
    simp [encode, flagFree, halfwordFree, byteFree, rateField_natCast]
  | memWrite a d | ioWrite a d =>
    obtain ⟨rfl, rfl⟩ := h
    simp [encode, flagFree, halfwordFree, byteFree]
  | releaseBus r =>
    cases h
    rcases flagField_cases w with hf | hf <;> simp [encode, flagFree, halfwordFree, byteFree, hf]
  | takeBusBank b | bankSelect b | memRead a | ioRead a | latchAddress a =>
    cases h
    simp [encode, flagFree, halfwordFree, byteFree]
  | _ => simp [flagFree, halfwordFree, byteFree]

/-- A word in the row of a command that spells its operands is the command's word: the row fixes the other fields. -/
theorem encode_eq_of_inRow {w : Word} {i : Instr} (hrow : InRow w i) (hoperands : Operands w i) : encode i = w := by
  have henc := inRow_encode i
  obtain ⟨hflag, hhw, hbyte⟩ := free_fields_encode hoperands
  refine word_eq_iff_fields.mpr ⟨BitVec.eq_of_toNat_eq (henc.op.trans hrow.op.symm), ?_,
    henc.reserved.trans hrow.reserved.symm, ?_, ?_⟩
  · cases hfree : flagFree i with
    | true => exact hflag hfree
    | false => rw [henc.flag hfree, hrow.flag hfree]
  · cases hfree : halfwordFree i with
    | true => exact hhw hfree
    | false => rw [henc.halfword hfree, hrow.halfword hfree]
  · cases hfree : byteFree i with
    | true => exact hbyte hfree
    | false => rw [henc.byte hfree, hrow.byte hfree]

end Sys2Proof
end

section
/-! The packed word settled: decoding and encoding are inverse (R63), the table of R64, the words of no row (R71), and
what a rate and a state allow (R67, R72). -/

namespace Sys2Proof.Machine

/-- Settles O2. -/
theorem decodeOfEncode : Obligations.DecodeOfEncode :=
  fun i hwf hpack => decode_of_inRow (inRow_encode i) (operands_encode hwf hpack)

/-- Settles O3. -/
theorem encodeOfDecode : Obligations.EncodeOfDecode := by
  intro w i h
  obtain ⟨hrow, hoperands⟩ := inRow_of_decode h
  exact ⟨encode_eq_of_inRow hrow hoperands, wellFormed_of_operands hoperands⟩

/-- Settles O4: match and mask are the fixed fields of a row, and the free fields are the operands. -/
theorem matchMaskTable : Obligations.MatchMaskTable := by
  refine ⟨fun w i => ?_, fun w i j hi hj => ?_⟩
  · rw [decode_command_iff, rowMatch_iff_inRow]
    cases i <;> rfl
  · exact ((rowMatch_iff_inRow w i).mp hi).rowMatch_eq ((rowMatch_iff_inRow w j).mp hj)

/-- Settles O5: a word that decoded would be in a row and, in a rate's row, have a rate field that is not 0. -/
theorem reservedWordsRefused : Obligations.ReservedWordsRefused := by
  intro s w rest hidle hreq hrows
  cases hdec : decode w with
  | rejected why => exact ⟨why, by simp [step, hidle, hreq, hdec]⟩
  | command i =>
    obtain ⟨hrow, hoperands⟩ := inRow_of_decode hdec
    obtain ⟨⟨r, rfl | rfl⟩, hzero⟩ := hrows i ((rowMatch_iff_inRow w i).mpr hrow)
    all_goals exact absurd hzero hoperands.2

/-- Settles O1. -/
theorem specWordsDecode : Obligations.SpecWordsDecode := by
  unfold Obligations.SpecWordsDecode
  decide +kernel

/-- With its operands in their domains and the sequencer idle an operation runs, or is refused for its state (R72). -/
theorem exec_of_idle {i : Instr} {s : State} (hwf : i.WellFormed) (hidle : s.seq = .idle) :
    ((∃ t, exec i s = .next t) ↔ allowed s i = true) ∧
      ((¬ ∃ t, exec i s = .next t) → exec i s = .refused (.wrongState (opOf i) s.own s.clockMode s.arm)) := by
  rw [exec_eq_issue]
  rcases issue_cases i (allowed s i) (programOf s.cfg i) s with
    ⟨hbad, -⟩ | ⟨-, hbusy, -⟩ | ⟨-, -, ha, e⟩ | ⟨-, -, ha, e⟩
  · exact absurd hwf hbad
  · exact absurd hidle hbusy
  · rw [e]
    simp [ha]
  · rw [e]
    simp [ha]

theorem acquired_iff (s : State) : acquired s = true ↔ s.own = .acquired := by simp [acquired]

theorem isArmed_iff (s : State) : isArmed s = true ↔ s.arm = .armed := by simp [isArmed]

theorem maySinglestepOn_iff (s : State) :
    maySinglestepOn s = true ↔ s.clockMode = .hardwareFree ∨ s.clockMode = .singleStep := by
  simp [maySinglestepOn]

/-- `CLOCK_REQUIRES_ACQUIRED` false asks nothing of the bus (R72). -/
theorem mayNormalClock_iff {s : State} (h : s.cfg.clockRequiresAcquired = false) :
    mayNormalClock s = true ↔ s.arm = .disarmed := by
  simp [mayNormalClock, clockOwnership, h]

theorem maySlowClock_iff {s : State} (h : s.cfg.clockRequiresAcquired = false) :
    maySlowClock s = true ↔ s.arm = .disarmed ∧ s.clockMode = .hardwareFree := by
  simp [maySlowClock, clockOwnership, h]

/-- Settles O8: each operation's precondition is the row of R72's table. -/
theorem preconditionTable : Obligations.PreconditionTable := by
  intro i s hwf hidle hclock
  obtain ⟨hruns, hrefused⟩ := exec_of_idle hwf hidle
  refine ⟨hruns.trans ?_, hrefused⟩
  cases i with
  | memRead | memWrite | ioRead | ioWrite | bankSelect => exact acquired_iff s
  | normalClock => exact mayNormalClock_iff hclock
  | slowClock => exact maySlowClock_iff hclock
  | singlestepOn => exact maySinglestepOn_iff s
  | stepWait | m1ReleaseWait => exact isArmed_iff s
  | reset | takeBus | takeBusBank | releaseBus | singlestepOff | autostep | latchAddress =>
    exact iff_of_true rfl trivial

/-- Two halves of a period make the period (R67). -/
theorem halfPeriod_add_halfPeriod (r : Quantity) : halfPeriod r + halfPeriod r = stepPeriod r := by
  rw [halfPeriod, stepPeriod, one_div, one_div, mul_inv, ← add_mul, ← two_mul, mul_inv_cancel₀ two_ne_zero, one_mul]

/-- Settles O9. -/
theorem rateArithmetic : Obligations.RateArithmetic := by
  refine ⟨fun r _ => ⟨rfl, rfl, halfPeriod_add_halfPeriod r⟩, ?_, rfl⟩
  norm_num [halfPeriod]

end Sys2Proof.Machine
end

section
/-! The byte reversal of the AddressEncoder (R80, R81): one rule for its bits, from which its laws follow. -/

namespace Sys2Proof.Machine

/-! ### Bits of the bitwise operators -/

@[simp] theorem bitAt_not (b : Byte) (i : Fin 8) : bitAt (~~~b) i = !bitAt b i := by simp [bitAt]

@[simp] theorem bitAt_and (x y : Byte) (i : Fin 8) : bitAt (x &&& y) i = (bitAt x i && bitAt y i) :=
  BitVec.getLsbD_and

@[simp] theorem bitAt_or (x y : Byte) (i : Fin 8) : bitAt (x ||| y) i = (bitAt x i || bitAt y i) := BitVec.getLsbD_or

@[simp] theorem bitAt_xor (x y : Byte) (i : Fin 8) : bitAt (x ^^^ y) i = (bitAt x i ^^ bitAt y i) :=
  BitVec.getLsbD_xor

/-! ### The reversal -/

/-- Bit `i` of the reversed byte is bit `7 - i` of the byte (R80). -/
@[simp] theorem bitAt_rev8 (b : Byte) (i : Fin 8) : bitAt (rev8 b) i = bitAt b i.rev := by
  unfold bitAt rev8
  rw [BitVec.getLsbD_ofBoolListBE]
  fin_cases i <;> rfl

/-- Settles O10: the rule for a bit, and the 256 bytes looked at one by one for the fixed points. -/
theorem rev8Bits : Obligations.Rev8Bits := ⟨bitAt_rev8, by decide⟩

theorem rev8_involutive : Function.Involutive rev8 := rev8_rev8

/-- Counted from either end, the one bits are as many. -/
theorem countP_bitAt_rev8 (b : Byte) :
    (List.finRange 8).countP (bitAt (rev8 b)) = (List.finRange 8).countP (bitAt b) :=
  calc (List.finRange 8).countP (bitAt (rev8 b))
      = (List.finRange 8).countP (bitAt b ∘ Fin.rev) := by rw [funext (bitAt_rev8 b)]; rfl
    _ = ((List.finRange 8).map Fin.rev).countP (bitAt b) := List.countP_map.symm
    _ = (List.finRange 8).reverse.countP (bitAt b) := by rw [List.finRange_reverse]
    _ = (List.finRange 8).countP (bitAt b) := List.countP_reverse

/-- Settles O11: the bitwise operators act bit by bit, so they commute with a change of the bits' places; an addition
carries. -/
theorem rev8Laws : Obligations.Rev8Laws := by
  refine ⟨rev8_rev8, rev8_involutive.bijective, fun b => ?_, fun b => ?_, fun x y => ⟨?_, ?_, ?_⟩, by decide, by decide⟩
  · simpa only [List.countP_eq_length_filter] using countP_bitAt_rev8 b
  all_goals
    apply byte_ext
    simp

end Sys2Proof.Machine
end

section
/-! Lines that are one primitive each, one after another, in an operation without a scope of its own: what a run of them
comes to, and what it leaves alone. -/

namespace Sys2Proof.Machine

/-! ### One line, several lines -/

/-- The state after line `k`, the primitive `p`, with the boundary before it. -/
def afterPrim (k : Nat) (p : Prim) (s : State) : State := jumpTo (k + 1) (perform p (boundary s).1)

/-- The state after the lines from `k` on, the primitives `ps`. -/
def afterPrims : Nat → List Prim → State → State
  | _, [], s => s
  | k, p :: ps, s => afterPrims (k + 1) ps (afterPrim k p s)

/-- The lines of a program from line `k` on are the primitives `ps`, and no line of them jumps. -/
def PrimsAt (prog : List ProgLine) (k : Nat) (ps : List Prim) : Prop :=
  ∀ j p, ps[j]? = some p → ∃ pos, prog[k + j]? = some ⟨pos, .prim p, none⟩

theorem PrimsAt.nil {prog : List ProgLine} {k : Nat} : PrimsAt prog k [] := by
  intro j p hj
  cases hj

theorem PrimsAt.cons {prog : List ProgLine} {k : Nat} {p : Prim} {ps : List Prim} {pos : Pos}
    (hl : prog[k]? = some ⟨pos, .prim p, none⟩) (h : PrimsAt prog (k + 1) ps) : PrimsAt prog k (p :: ps) := by
  intro j x hj
  cases j with
  | zero =>
    cases hj
    exact ⟨pos, hl⟩
  | succ j =>
    rw [← Nat.add_assoc, Nat.add_right_comm]
    exact h j x hj

theorem PrimsAt.head {prog : List ProgLine} {k : Nat} {p : Prim} {ps : List Prim} (h : PrimsAt prog k (p :: ps)) :
    ∃ pos, prog[k]? = some ⟨pos, .prim p, none⟩ := h 0 p rfl

theorem PrimsAt.tail {prog : List ProgLine} {k : Nat} {p : Prim} {ps : List Prim} (h : PrimsAt prog k (p :: ps)) :
    PrimsAt prog (k + 1) ps := by
  intro j x hx
  rw [Nat.add_right_comm]
  exact h (j + 1) x hx

/-- On the way from `s` to `t` an access aborted, which is on record as raised, or a kill struck. -/
def Disturbed (s t : State) : Prop :=
  (t.raised ≠ none ∧ ∃ l ∈ s.env, ∃ n, fateOf s.cfg l.fate = .abort n) ∨
    (t.killed = true ∧ ∃ used l, s.env = used ++ l :: t.env ∧ l.fate = .kill)

theorem fateOf_eq_kill {c : Params} {f : Fate} : fateOf c f = .kill ↔ f = .kill := by
  cases f with
  | abort n => cases h : c.transportMayFail <;> simp [fateOf, h]
  | ok | kill => simp [fateOf]

/-- The fate of an access that is not simply made is the script's. -/
theorem fate_of_boundary {s : State} (h : (boundary s).2 ≠ .ok) :
    ∃ l, s.env = l :: (boundary s).1.env ∧ (boundary s).2 = fateOf s.cfg l.fate := by
  rw [boundary_env]
  cases e : s.env with
  | nil => exact absurd (by rw [boundary_nil e]) h
  | cons l r => exact ⟨l, rfl, by rw [boundary_cons e]⟩

/-- A script without failures and kills disturbs nothing (R184). -/
theorem Disturbed.not_sound {s t : State} (h : Disturbed s t) : ¬ Sound s := by
  intro hs
  rcases h with ⟨_, l, hl, n, hf⟩ | ⟨_, used, l, henv, hf⟩
  · cases (hs l hl).symm.trans hf
  · have hok := hs l (by simp [henv])
    rw [fateOf_eq_kill.mpr hf] at hok
    cases hok

/-- What has returned without a fault and without a kill was not disturbed. -/
theorem Disturbed.not_returned {s t : State} (h : Disturbed s t) (hret : Returned t) : ¬ NotKilled s t := by
  obtain ⟨_, hraised, _⟩ := hret
  rintro (halive | ⟨used, henv, hused⟩)
  · rcases h with ⟨hr, _⟩ | ⟨hk, _⟩
    · exact hr hraised
    · cases hk.symm.trans halive
  · rcases h with ⟨hr, _⟩ | ⟨_, used', l, henv', hl⟩
    · exact hr hraised
    · have hsame : used' ++ [l] = used := List.append_cancel_right (bs := t.env) (by simp [← henv, henv'])
      exact hused l (by simp [← hsame]) hl

/-- What disturbs the run after one boundary disturbs it with that boundary. -/
theorem Disturbed.before {s s' t : State} (h : Disturbed s' t) (hcfg : s'.cfg = s.cfg) (henv : s'.env = s.env.tail) :
    Disturbed s t := by
  rcases h with ⟨hr, l, hl, n, hf⟩ | ⟨hk, used, l, hs', hf⟩
  · exact .inl ⟨hr, l, List.mem_of_mem_tail (henv ▸ hl), n, hcfg ▸ hf⟩
  · rw [henv] at hs'
    cases e : s.env with
    | nil => simp [e] at hs'
    | cons x r => exact .inr ⟨hk, x :: used, l, by simpa [e] using hs', hf⟩

theorem afterPrim_cfg (k : Nat) (p : Prim) (s : State) : (afterPrim k p s).cfg = s.cfg :=
  (perform_kept p _).cfg.trans (boundary_kept s).cfg

theorem afterPrim_env (k : Nat) (p : Prim) (s : State) : (afterPrim k p s).env = s.env.tail :=
  (perform_kept p _).env.trans (boundary_env s)

theorem afterPrim_seq {i : Instr} {k : Nat} {s : State} (hq : s.seq = .running i k) (p : Prim) :
    (afterPrim k p s).seq = .running i (k + 1) := by
  simp [afterPrim, jumpTo, (perform_kept p _).seq, (boundary_kept s).seq, hq]

section
variable {prog : List ProgLine} {i : Instr} (hscope : scopeHandler i = none)
include hscope

/-- ALL THAT A TICK OF SUCH A LINE CAN DO: the primitive, or the operation ends disturbed. -/
theorem tick_prim_cases {s : State} {k : Nat} {p : Prim} {pos : Pos} (hq : s.seq = .running i k)
    (hl : prog[k]? = some ⟨pos, .prim p, none⟩) :
    tick prog s = afterPrim k p s ∨ (tick prog s).seq = .idle ∧ Disturbed s (tick prog s) := by
  have hq' : (boundary s).1.seq = .running i k := (boundary_kept s).seq.trans hq
  rw [tick_line hq hl]
  unfold doLine
  rcases access_cases p pos (fun t => advance k ⟨pos, .prim p, none⟩ (perform p t)) s with
    ⟨hc, -⟩ | ⟨-, ⟨-, e⟩ | ⟨n, hf, e⟩ | ⟨hf, e⟩⟩
  · simp [hq', cancellable, hscope] at hc
  · exact .inl e
  · obtain ⟨l, henv, hfate⟩ := fate_of_boundary (s := s) (by simp [hf])
    dsimp only
    rw [e]
    refine .inr ⟨?_, .inl ⟨by simp, l, by rw [henv]; exact List.mem_cons_self .., n, hfate.symm.trans hf⟩⟩
    simp [raiseFault, (abortEffect_kept p n _).seq, hq', hscope]
  · obtain ⟨l, henv, hfate⟩ := fate_of_boundary (s := s) (by simp [hf])
    dsimp only
    rw [e]
    exact .inr ⟨rfl, .inr ⟨rfl, [], l, henv, fateOf_eq_kill.mp (hfate.symm.trans hf)⟩⟩

/-- ALL THAT A RUN OF SUCH LINES CAN COME TO: all of them are done and the run goes on, or it ends disturbed. -/
theorem runProg_prims_cases {ps : List Prim} {k : Nat} {s : State} (n : Nat) (hq : s.seq = .running i k)
    (hprog : PrimsAt prog k ps) :
    ((afterPrims k ps s).seq = .running i (k + ps.length) ∧
        runProg prog (n + ps.length) s = runProg prog n (afterPrims k ps s)) ∨
      Disturbed s (runProg prog (n + ps.length) s) := by
  induction ps generalizing k s with
  | nil => exact .inl ⟨hq, rfl⟩
  | cons p ps ih =>
    obtain ⟨pos, hl⟩ := hprog.head
    rw [List.length_cons, ← Nat.add_assoc n, ← Nat.add_assoc k, Nat.add_right_comm k]
    rcases tick_prim_cases hscope hq hl with e | ⟨hidle, hd⟩
    · have hq' := afterPrim_seq hq p
      rw [runProg_forward _ hq (by rw [e, hq']; exact parked_forward hq k.lt_succ_self), e]
      exact (ih hq' hprog.tail).imp_right fun h => h.before (afterPrim_cfg k p s) (afterPrim_env k p s)
    · rw [runProg_forward _ hq (by rw [hidle]; exact parked_idle _ _), runProg_idle _ hidle]
      exact .inr hd

/-- A program of such lines alone runs to its end and returns, or ends disturbed. -/
theorem runOp_prims_cases {ps : List Prim} {s : State} (hq : s.seq = .running i 0) (hprog : PrimsAt prog 0 ps)
    (hlen : prog.length = ps.length) :
    runOp prog s = opReturn (afterPrims 0 ps s) ∨ Disturbed s (runOp prog s) := by
  obtain ⟨n, hfuel⟩ : ∃ n, runFuel prog s = n + 1 + ps.length := by
    have hle : prog.length + 1 ≤ runFuel prog s := Nat.le_mul_of_pos_right _ (Nat.succ_pos _)
    exact ⟨runFuel prog s - (prog.length + 1), by omega⟩
  unfold runOp
  rw [hfuel]
  refine (runProg_prims_cases hscope (n + 1) hq hprog).imp_left fun ⟨hend, e⟩ => ?_
  have hreturn : tick prog (afterPrims 0 ps s) = opReturn (afterPrims 0 ps s) :=
    tick_end hend (List.getElem?_eq_none (by omega))
  rw [e, runProg_forward n hend (by rw [hreturn]; exact parked_idle _ _), hreturn]
  exact runProg_idle n rfl

end

/-! ### What the lines leave alone -/

/-- The controller's flags and records are the same, but for the sequencer's. -/
structure RecordsStand (s t : State) : Prop where
  flags : FlagsKept s t
  raised : t.raised = s.raised
  result : t.result = s.result

theorem RecordsStand.refl (s : State) : RecordsStand s s := ⟨⟨rfl, rfl, rfl, rfl, rfl, rfl, rfl, rfl, rfl⟩, rfl, rfl⟩

theorem RecordsStand.trans {s t u : State} (h : RecordsStand s t) (k : RecordsStand t u) : RecordsStand s u := by
  obtain ⟨⟨h1, h2, h3, h4, h5, h6, h7, h8, h9⟩, hraised, hresult⟩ := h
  obtain ⟨⟨k1, k2, k3, k4, k5, k6, k7, k8, k9⟩, kraised, kresult⟩ := k
  exact ⟨⟨k1.trans h1, k2.trans h2, k3.trans h3, k4.trans h4, k5.trans h5, k6.trans h6, k7.trans h7, k8.trans h8,
    k9.trans h9⟩, kraised.trans hraised, kresult.trans hresult⟩

theorem EnvKept.records {s t : State} (h : EnvKept s t) : RecordsStand s t :=
  ⟨⟨h.cfg, h.own, h.clockMode, h.arm, h.fault, h.killed, h.t0, h.requests, h.console⟩, h.raised, h.result⟩

theorem AccessKept.records {s t : State} (h : AccessKept s t) : RecordsStand s t :=
  ⟨⟨h.cfg, h.own, h.clockMode, h.arm, h.fault, h.killed, h.t0, h.requests, h.console⟩, h.raised, h.result⟩

theorem jumpTo_records (k : Nat) (s : State) : RecordsStand s (jumpTo k s) :=
  ⟨⟨rfl, rfl, rfl, rfl, rfl, rfl, rfl, rfl, rfl⟩, rfl, rfl⟩

theorem afterPrim_records (k : Nat) (p : Prim) (s : State) : RecordsStand s (afterPrim k p s) :=
  ((boundary_kept s).records.trans (perform_kept p _).records).trans (jumpTo_records _ _)

theorem afterPrims_records (k : Nat) (ps : List Prim) (s : State) : RecordsStand s (afterPrims k ps s) := by
  induction ps generalizing k s with
  | nil => exact .refl s
  | cons p ps ih => exact (afterPrim_records k p s).trans (ih _ _)

/-! ### The registers and the trace after the lines -/

theorem afterPrim_out (k : Nat) (p : Prim) (s : State) : (afterPrim k p s).out = latchesAfter s.cfg p s.out := by
  rw [afterPrim, jumpTo_out, perform_out_eq, (boundary_kept s).cfg, (boundary_kept s).out]

theorem afterPrim_dir (k : Nat) (p : Prim) (s : State) : (afterPrim k p s).dir = directionsAfter s.cfg p s.dir := by
  rw [afterPrim, jumpTo_dir, perform_dir_eq, (boundary_kept s).cfg, (boundary_kept s).dir]

theorem afterPrims_out (k : Nat) (ps : List Prim) (s : State) :
    (afterPrims k ps s).out = ps.foldl (fun r p => latchesAfter s.cfg p r) s.out := by
  induction ps generalizing k s with
  | nil => rfl
  | cons p ps ih => rw [afterPrims, ih, afterPrim_cfg, afterPrim_out, List.foldl_cons]

theorem afterPrims_dir (k : Nat) (ps : List Prim) (s : State) :
    (afterPrims k ps s).dir = ps.foldl (fun r p => directionsAfter s.cfg p r) s.dir := by
  induction ps generalizing k s with
  | nil => rfl
  | cons p ps ih => rw [afterPrims, ih, afterPrim_cfg, afterPrim_dir, List.foldl_cons]

/-- The primitive configures no interrupt. -/
def configures : Prim → Bool
  | .iocConfig _ _ _ => true
  | _ => false

theorem afterPrims_iocSetup {ps : List Prim} (h : ∀ p ∈ ps, configures p = false) (k : Nat) (s : State) :
    IocSetupKept s (afterPrims k ps s) := by
  induction ps generalizing k s with
  | nil => exact ⟨rfl, rfl, rfl⟩
  | cons p ps ih =>
    have hp : ∀ g f v, p ≠ .iocConfig g f v := by
      rintro g f v rfl
      cases h _ (List.mem_cons_self ..)
    obtain ⟨hen, hdflt, hcmp⟩ := perform_ioc_other hp (boundary s).1
    obtain ⟨hen', hdflt', hcmp'⟩ := ih (fun x hx => h x (List.mem_cons_of_mem _ hx)) (k + 1) (afterPrim k p s)
    exact ⟨hen'.trans (hen.trans (boundary_kept s).en), hdflt'.trans (hdflt.trans (boundary_kept s).dflt),
      hcmp'.trans (hcmp.trans (boundary_kept s).cmp)⟩

/-- The primitive reads a port or a flag, so that its event says what was read. -/
def reads : Prim → Bool
  | .samplePort _ | .sample _ | .iocFlag _ => true
  | _ => false

theorem eventOf_of_not_reads {p : Prim} (h : reads p = false) (s t : State) : eventOf p s = eventOf p t := by
  cases p with
  | samplePort | sample | iocFlag => cases h
  | _ => rfl

theorem afterPrims_trace {ps : List Prim} (h : ∀ p ∈ ps, reads p = false) (k : Nat) (s : State) :
    (afterPrims k ps s).trace = s.trace ++ ps.map fun p => eventOf p s := by
  induction ps generalizing k s with
  | nil => simp [afterPrims]
  | cons p ps ih =>
    have htail : ∀ x ∈ ps, reads x = false := fun x hx => h x (List.mem_cons_of_mem _ hx)
    have hmap : (ps.map fun x => eventOf x (afterPrim k p s)) = ps.map fun x => eventOf x s :=
      List.map_congr_left fun x hx => eventOf_of_not_reads (htail x hx) _ _
    rw [afterPrims, ih htail, hmap, afterPrim, jumpTo_trace, perform_trace, (boundary_kept s).trace,
      eventOf_of_not_reads (h p (List.mem_cons_self ..)) _ s]
    simp

end Sys2Proof.Machine
end

section
/-! `LATCH_ADDRESS` (R82, R83): two writes of bus latches, which change no line, so that the board sees them only where a
write or IO window stands open. -/

namespace Sys2Proof.Machine

/-! ### The board at a write that changes no line -/

/-- Only the target's memory, its IO devices' history, its bank register and the draws differ. -/
structure StoresOnly (s t : State) : Prop where
  eq : t = { s with
    target := { s.target with mem := t.target.mem, io := t.target.io, bank := t.target.bank }, draws := t.draws }

theorem StoresOnly.refl (s : State) : StoresOnly s s := ⟨rfl⟩

theorem StoresOnly.trans {s t u : State} (h : StoresOnly s t) (k : StoresOnly t u) : StoresOnly s u :=
  ⟨by rw [k.eq, h.eq]⟩

theorem storeByte_stores (a : Addr) (v : Byte) (s : State) (n : Nat) :
    StoresOnly s { storeByte a v s with draws := n } := by
  unfold storeByte
  split <;> exact ⟨rfl⟩

theorem ioAccess_stores (x : IoAccess) (s : State) (n : Nat) : StoresOnly s { ioAccess x s with draws := n } := by
  cases x <;> exact ⟨rfl⟩

theorem holdWrite_stores (s : State) : StoresOnly s (holdWrite s) := by
  unfold holdWrite
  split
  · exact storeByte_stores _ _ _ _
  · exact .refl s

/-- The devices that answer to the strobes change nothing else. -/
theorem deviceReact_stores (old new : State) :
    StoresOnly new (ioReadReact old (ioWriteReact old (memWriteReact old new))) := by
  have hmem (x : State) : StoresOnly x (memWriteReact old x) := by
    unfold memWriteReact
    split
    · exact storeByte_stores _ _ _ _
    · exact .refl x
  have hwrite (x : State) : StoresOnly x (ioWriteReact old x) := by
    unfold ioWriteReact
    split
    · exact (ioAccess_stores _ x _).trans (holdWrite_stores _)
    · exact .refl x
  have hread (x : State) : StoresOnly x (ioReadReact old x) := by
    unfold ioReadReact
    split
    · exact ioAccess_stores _ _ _
    · exact .refl x
  exact ((hmem _).trans (hwrite _)).trans (hread _)

/-- The lines and CLKOUT are the same. -/
structure SameLines (s t : State) : Prop where
  line : ∀ g, line t g = line s g
  clkout : clkoutHigh t = clkoutHigh s

theorem SameLines.trans {s t u : State} (h : SameLines s t) (k : SameLines t u) : SameLines s u :=
  ⟨fun g => (k.line g).trans (h.line g), k.clkout.trans h.clkout⟩

theorem SameLines.of_registers {s t : State} (hcfg : t.cfg = s.cfg) (hdir : t.dir = s.dir) (hout : t.out = s.out) :
    SameLines s t :=
  ⟨line_congr hcfg hdir hout, by unfold clkoutHigh; rw [hcfg, hout]⟩

theorem SameLines.asserts {s t : State} (h : SameLines s t) (g : Signal) : asserts t g = asserts s g := by
  unfold Machine.asserts
  rw [h.line]

theorem StoresOnly.sameLines {s t : State} (h : StoresOnly s t) : SameLines s t := by
  rw [h.eq]
  exact .of_registers rfl rfl rfl

theorem resetReact_same {old new : State} (h : SameLines old new) : resetReact old new = new := by
  unfold resetReact
  rw [h.asserts]
  cases asserts old .reset <;> rfl

theorem clockReact_same {old new : State} (h : SameLines old new) : clockReact old new = new := by
  unfold clockReact
  rw [h.line, h.clkout]
  simp

/-- A write that changes no line reaches the devices alone: no pulse begins or ends, and no clock edge is made. -/
theorem react_sameLines {old new : State} (h : SameLines old new) : StoresOnly new (react old new) := by
  have hdevices := deviceReact_stores old new
  have hlines := h.trans hdevices.sameLines
  unfold react
  rw [resetReact_same hlines, clockReact_same hlines]
  exact hdevices

/-- Every strobe's line is not asserted, so that no window is open. -/
def StrobesQuiet (s : State) : Prop := ∀ g ∈ strobes, asserts s g = false

theorem SameLines.strobesQuiet {s t : State} (h : SameLines s t) (hs : StrobesQuiet s) : StrobesQuiet t :=
  fun g hg => (h.asserts g).trans (hs g hg)

theorem StrobesQuiet.windows {s : State} (h : StrobesQuiet s) :
    memWriteWindow s = false ∧ ioWriteWindow s = false ∧ ioReadWindow s = false := by
  have hmreq := h .mreq (by decide)
  have hiorq := h .iorq (by decide)
  simp [memWriteWindow, ioWriteWindow, ioReadWindow, hmreq, hiorq]

/-- With the strobes quiet such a write reaches nothing. -/
theorem react_strobesQuiet {old new : State} (h : SameLines old new) (hs : StrobesQuiet new) : react old new = new := by
  obtain ⟨hm, hw, hr⟩ := hs.windows
  exact react_none (acting_closed hm) (acting_closed hw) (acting_closed hr) (h.asserts _) (h.line _) fun _ => h.clkout

/-! ### The write of a bus latch -/

/-- The primitive latches a port of the address or data bus. -/
def LatchesBus (p : Prim) : Prop := ∃ q v, p = .latch q v ∧ BusPort q

theorem LatchesBus.plain {p : Prim} (h : LatchesBus p) : configures p = false ∧ reads p = false := by
  obtain ⟨q, v, rfl, _⟩ := h
  exact ⟨rfl, rfl⟩

/-- No control signal is on a bus port (R13). -/
theorem storeWrite_busLatch_sameLines {s : State} (hc : s.cfg.pins.WellFormed) {q : Port} (hq : BusPort q) (v : Byte) :
    SameLines s (storeWrite (.outPort q v) s) := by
  have hpin (g : Signal) : getPin (s.out.set q v) (s.cfg.pins.pin g) = getPin s.out (s.cfg.pins.pin g) :=
    getPin_set_busPort hc hq s.out v g
  refine ⟨fun g => ?_, hpin .clkout⟩
  unfold line isOutput storeWrite
  dsimp only
  rw [hpin]

/-- What the lines that latch bus ports leave of the target's side and of the change interrupt, with an environment that
does nothing. -/
structure QuietLatches (s t : State) : Prop where
  cfg : t.cfg = s.cfg
  quiet : Quiet t
  lines : SameLines s t
  target : TargetKept s t
  ioc : t.ioc = s.ioc
  stores : StrobesQuiet s → StoresKept s t

theorem QuietLatches.trans {s t u : State} (h : QuietLatches s t) (k : QuietLatches t u) : QuietLatches s u where
  cfg := k.cfg.trans h.cfg
  quiet := k.quiet
  lines := h.lines.trans k.lines
  target := by
    obtain ⟨hbus, hm1, hcpu, hreset⟩ := h.target
    obtain ⟨kbus, km1, kcpu, kreset⟩ := k.target
    exact ⟨kbus.trans hbus, km1.trans hm1, kcpu.trans hcpu, kreset.trans hreset⟩
  ioc := k.ioc.trans h.ioc
  stores hs := by
    obtain ⟨hmem, hio, hbank⟩ := h.stores hs
    obtain ⟨kmem, kio, kbank⟩ := k.stores (h.lines.strobesQuiet hs)
    exact ⟨kmem.trans hmem, kio.trans hio, kbank.trans hbank⟩

/-- A move of the sequencer leaves all of this. -/
theorem SameHardware.quietLatches {s t : State} (hw : SameHardware s t) (henv : t.env = s.env) (h : Quiet s) :
    QuietLatches s t := by
  refine ⟨hw.cfg, ?_, .of_registers hw.cfg hw.dir hw.out, ?_, hw.ioc, fun _ => ?_⟩
  · rwa [Quiet, henv]
  · rw [TargetKept, hw.target]
    exact ⟨rfl, rfl, rfl, rfl⟩
  · rw [StoresKept, hw.target]
    exact ⟨rfl, rfl, rfl⟩

theorem boundary_quietLatches {s : State} (h : Quiet s) : QuietLatches s (boundary s).1 := by
  obtain ⟨e, hquiet⟩ := boundary_quiet h
  have hkept := boundary_kept s
  refine ⟨hkept.cfg, hquiet, .of_registers hkept.cfg hkept.dir hkept.out, ?_, ?_, fun _ => ?_⟩ <;> rw [e]
  · exact ⟨rfl, rfl, rfl, rfl⟩
  · rfl
  · exact ⟨rfl, rfl, rfl⟩

theorem perform_quietLatches {p : Prim} (hp : LatchesBus p) {s : State} (hc : s.cfg.pins.WellFormed) (h : Quiet s) :
    QuietLatches s (perform p s) := by
  obtain ⟨q, v, rfl, hq⟩ := hp
  have hlines := storeWrite_busLatch_sameLines hc hq v
  have hstores := react_sameLines hlines
  have hkept := perform_kept (.latch q v) s
  have hw : perform (.latch q v) s = emit (.latch q v) (react s (storeWrite (.outPort q v) s)) := rfl
  refine ⟨hkept.cfg, ?_, ?_, ?_, ?_, fun hs => ?_⟩
  · intro l hl
    rw [hkept.env] at hl
    exact h l hl
  · exact (hlines.trans hstores.sameLines).trans (.of_registers rfl rfl rfl)
  · rw [hw, hstores.eq]
    exact ⟨rfl, rfl, rfl, rfl⟩
  · rw [hw, hstores.eq]
    rfl
  · rw [hw, react_strobesQuiet hlines (hlines.strobesQuiet hs)]
    exact ⟨rfl, rfl, rfl⟩

theorem afterPrim_quietLatches {p : Prim} (hp : LatchesBus p) (k : Nat) {s : State} (hc : s.cfg.pins.WellFormed)
    (h : Quiet s) : QuietLatches s (afterPrim k p s) := by
  have hbefore := boundary_quietLatches h
  have hafter := perform_quietLatches hp (by rwa [hbefore.cfg]) hbefore.quiet
  exact (hbefore.trans hafter).trans ((jumpTo_control _ _).quietLatches rfl hafter.quiet)

theorem afterPrims_quietLatches {ps : List Prim} (hp : ∀ p ∈ ps, LatchesBus p) (k : Nat) {s : State}
    (hc : s.cfg.pins.WellFormed) (h : Quiet s) : QuietLatches s (afterPrims k ps s) := by
  induction ps generalizing k s with
  | nil => exact SameHardware.quietLatches ⟨rfl, rfl, rfl, rfl, rfl⟩ rfl h
  | cons p ps ih =>
    have hfirst := afterPrim_quietLatches (hp p (List.mem_cons_self ..)) k hc h
    exact hfirst.trans (ih (fun x hx => hp x (List.mem_cons_of_mem _ hx)) _ (by rwa [hfirst.cfg]) hfirst.quiet)

/-- With the invariant and no operation in progress no strobe is asserted: the strobes float, or their latches are inactive
(I-STROBE). -/
theorem Good.strobesQuiet {s : State} (h : Good s) (hidle : s.seq = .idle) : StrobesQuiet s := by
  obtain ⟨_, hstrobes, _⟩ := h.floating
  obtain ⟨_, hwindow⟩ := h.window
  intro g hg
  rcases hstrobes with hdriven | hfloat
  · have hplaced := hwindow hdriven
    rw [if_neg (by simp [hidle, takeAt])] at hplaced
    have hlatch := hplaced g hg
    rw [hidle] at hlatch
    exact asserts_of_latch hlatch
  · unfold asserts
    rw [line_floating (hfloat g hg)]
    rfl

/-! ### The two lines -/

/-- The two primitives of `LATCH_ADDRESS`, in the order of `ADDR_PORT_ORDER` (R82). -/
def addressLatches (c : Params) (a : Addr) : List Prim :=
  match c.addrPortOrder with
  | .hiFirst => [.latch .addrHi (rev8 (hiByte a)), .latch .addrLo (rev8 (loByte a))]
  | .loFirst => [.latch .addrLo (rev8 (loByte a)), .latch .addrHi (rev8 (hiByte a))]

section
variable (c : Params) (a : Addr)

theorem addressLatches_length : (addressLatches c a).length = 2 := by
  unfold addressLatches
  split <;> rfl

theorem primsAt_latchLines : PrimsAt (latchLines c a) 0 (addressLatches c a) := by
  unfold latchLines addressLatches
  cases c.addrPortOrder <;> exact .cons rfl (.cons rfl .nil)

theorem addressLatches_latchBus : ∀ p ∈ addressLatches c a, LatchesBus p := by
  unfold addressLatches
  split <;> simp [LatchesBus, BusPort]

theorem addressLatches_out (r : Ports) :
    (addressLatches c a).foldl (fun r p => latchesAfter c p r) r = latched r a := by
  unfold addressLatches
  split <;> rfl

theorem addressLatches_dir (r : Ports) :
    (addressLatches c a).foldl (fun r p => directionsAfter c p r) r = r := by
  unfold addressLatches
  split <;> rfl

theorem addressLatches_events (s : State) :
    ((addressLatches c a).map fun p => eventOf p s) = latchEvents c a := by
  unfold addressLatches latchEvents
  cases c.addrPortOrder <;> rfl

end

/-- The state after the two lines of `LATCH_ADDRESS` and its return, nothing having disturbed them. -/
def afterLatch (a : Nat) (s : State) : State :=
  opReturn (afterPrims 0 (addressLatches s.cfg (addrOf a)) (beginOp (.latchAddress a) s))

/-- ALL THAT `LATCH_ADDRESS` CAN DO. -/
theorem execLatchAddress_cases {s t : State} {a : Nat} (h : exec (.latchAddress a) s = .next t) :
    t = afterLatch a s ∨ Disturbed s t := by
  obtain ⟨_, _, rfl⟩ := exec_next h
  exact runOp_prims_cases (i := .latchAddress a) (s := beginOp (.latchAddress a) s) rfl rfl
    (primsAt_latchLines s.cfg (addrOf a)) (by
      rw [addressLatches_length]
      exact latchLines_length _ _)

theorem afterLatch_out (a : Nat) (s : State) : (afterLatch a s).out = latched s.out (addrOf a) :=
  (afterPrims_out ..).trans (addressLatches_out ..)

theorem afterLatch_dir (a : Nat) (s : State) : (afterLatch a s).dir = s.dir :=
  (afterPrims_dir ..).trans (addressLatches_dir ..)

theorem afterLatch_records (a : Nat) (s : State) : RecordsStand (beginOp (.latchAddress a) s) (afterLatch a s) :=
  (afterPrims_records ..).trans ⟨⟨rfl, rfl, rfl, rfl, rfl, rfl, rfl, rfl, rfl⟩, rfl, rfl⟩

theorem afterLatch_trace (a : Nat) (s : State) :
    (afterLatch a s).trace = s.trace ++ latchEvents s.cfg (addrOf a) := by
  rw [← addressLatches_events _ _ (beginOp (.latchAddress a) s)]
  exact afterPrims_trace (fun p hp => (addressLatches_latchBus _ _ p hp).plain.2) 0 _

theorem afterLatch_quiet {s : State} (hc : s.cfg.pins.WellFormed) (h : Quiet s) (a : Nat) :
    QuietLatches s (afterLatch a s) := by
  have hbegin : QuietLatches s (beginOp (.latchAddress a) s) :=
    SameHardware.quietLatches ⟨rfl, rfl, rfl, rfl, rfl⟩ rfl h
  have hlines := afterPrims_quietLatches (addressLatches_latchBus s.cfg (addrOf a)) 0
    (s := beginOp (.latchAddress a) s) hc hbegin.quiet
  exact (hbegin.trans hlines).trans ((opReturn_control _).quietLatches rfl hlines.quiet)

/-- Settles O12: a sound script lets both lines be done, and what they leave is read off them. -/
theorem latchAddressCompletes : Obligations.LatchAddressCompletes := by
  intro s a hwf hidle hsound ha
  obtain ⟨hpins, _⟩ := hwf
  obtain ⟨t, ht⟩ := (exec_of_idle (i := .latchAddress a) ha hidle).1.mpr rfl
  obtain rfl := (execLatchAddress_cases ht).resolve_right fun hd => hd.not_sound hsound
  have hrecords := afterLatch_records a s
  refine ⟨_, ht, ⟨rfl, hrecords.raised, rfl⟩, hrecords.flags, hrecords.result, afterLatch_dir a s, ?_, afterLatch_out a s,
    afterLatch_trace a s, fun hq => ?_, fun hgood hq => ?_⟩
  · exact afterPrims_iocSetup (fun p hp => (addressLatches_latchBus _ _ p hp).plain.1) 0 (beginOp (.latchAddress a) s)
  · have h := afterLatch_quiet hpins hq a
    exact ⟨h.target, h.ioc⟩
  · exact (afterLatch_quiet hpins hq a).stores (hgood.strobesQuiet hidle)

/-! ### The address on the bus -/

/-- An address port that the controller alone drives shows its latch (R17, R20). -/
theorem addrPortLevels_driven {s : State} {p : Port} (hdir : s.dir.get p = allPins s.cfg true)
    (hbus : s.target.ownsBus = false) (n : Nat) : addrPortLevels s p n = s.out.get p := by
  have hout (i : Fin 8) : isOutput s ⟨p, i⟩ = true := isOutput_of_allPins hdir
  simp only [addrPortLevels, hout, hbus]
  exact byteOfBits_bitAt _

/-- The wires turn the latches' bits round once more (R17, R80). -/
theorem busAddr_driven {s : State} (hdriven : addrDriven s) (hbus : s.target.ownsBus = false) :
    busAddr s = rev8 s.out.addrHi ++ rev8 s.out.addrLo := by
  obtain ⟨hhi, hlo⟩ := hdriven
  unfold busAddr
  rw [addrPortLevels_driven (p := .addrHi) hhi hbus, addrPortLevels_driven (p := .addrLo) hlo hbus]
  rfl

theorem busAddr_latched {s : State} {r : Ports} {a : Addr} (hout : s.out = latched r a) (hdriven : addrDriven s)
    (hbus : s.target.ownsBus = false) : busAddr s = a := by
  rw [busAddr_driven hdriven hbus, hout]
  unfold latched
  rw [rev8_rev8, rev8_rev8, hiByte_append_loByte]

/-- Settles O13: what returned without a fault and without a kill has latched both bytes. -/
theorem addressOnTheBus : Obligations.AddressOnTheBus := by
  intro s t a _ hexec hret hkill hdriven hbus
  obtain rfl := (execLatchAddress_cases hexec).resolve_right fun hd => hd.not_returned hret hkill
  exact busAddr_latched (afterLatch_out a s) hdriven hbus

end Sys2Proof.Machine
end

section
/-! `RELEASE_BUS` undoes every direction change (R99). Every operation writes the directions of the groups alone, and a
`RELEASE_BUS` that returns leaves all three groups floating. -/

namespace Sys2Proof.Machine

/-! ### The directions outside the groups -/

/-- The directions of the groups' pins alone may differ. -/
structure GroupsOnly (s t : State) : Prop where
  cfg : t.cfg = s.cfg
  others : otherDirectionsKept s t

theorem GroupsOnly.of_dir_eq {s t : State} (hcfg : t.cfg = s.cfg) (hdir : t.dir = s.dir) : GroupsOnly s t :=
  ⟨hcfg, fun _ _ _ _ _ => by rw [hdir]⟩

theorem GroupsOnly.trans {s t u : State} (h : GroupsOnly s t) (k : GroupsOnly t u) : GroupsOnly s u :=
  ⟨k.cfg.trans h.cfg, fun q hhi hlo hdata hstrobes =>
    (k.others q hhi hlo hdata (by rwa [h.cfg])).trans (h.others q hhi hlo hdata hstrobes)⟩

/-- A write of a whole bus port, or of the strobes' directions, leaves every other pin. -/
theorem storeWrite_groupsOnly {s : State} {w : RegWrite} (hw : ProgrammedWrite s.cfg w) :
    GroupsOnly s (storeWrite w s) := by
  refine ⟨(storeWrite_kept w s).cfg, fun q hhi hlo hdata hstrobes => ?_⟩
  cases w with
  | dirPort p o =>
    have hport : q.port ≠ p := by
      rcases hw with rfl | rfl | rfl
      · exact hhi
      · exact hlo
      · exact hdata
    exact getPin_set_other _ _ hport
  | dirStrobes o =>
    rw [storeWrite_dirStrobes]
    exact getPin_setSignals_other hstrobes _
  | outPin | outPort => rfl
  | iocBit f => cases f <;> rfl

theorem groupsOnly_law : StepLaw GroupsOnly where
  trans := GroupsOnly.trans
  control h := .of_dir_eq h.cfg h.dir
  begins _ _ := .of_dir_eq rfl rfl
  env h := .of_dir_eq h.cfg h.dir
  write {s _} hw :=
    (storeWrite_groupsOnly hw).trans (.of_dir_eq (react_board s _).kept.cfg (react_board s _).dir)
  touch _ _ := .of_dir_eq rfl rfl

theorem runAll_groupsOnly {l : List Instr} {s t : State} (h : runAll l s = some t) : GroupsOnly s t := by
  induction l generalizing s with
  | nil =>
    cases h
    exact .of_dir_eq rfl rfl
  | cons i l ih =>
    unfold runAll at h
    split at h
    · next u hu =>
      split at h
      · exact (groupsOnly_law.exec hu).trans (ih h)
      · cases h
    all_goals cases h

/-- What a pin's direction bit is, its role says (R12). -/
theorem getPin_dir_of_isOutput {s t : State} (hcfg : t.cfg = s.cfg) {q : Pin} (h : isOutput t q = isOutput s q) :
    getPin t.dir q = getPin s.dir q := by
  unfold isOutput at h
  rw [hcfg] at h
  revert h
  cases getPin t.dir q <;> cases getPin s.dir q <;> cases s.cfg.dirInputBit <;> decide

/-- With every group as it was, all six direction registers are as they were. -/
theorem GroupsOnly.dir_eq {s t : State} (h : GroupsOnly s t) (hg : ∀ g, ∃ o, groupAt s g o ∧ groupAt t g o) :
    t.dir = s.dir := by
  obtain ⟨oa, ⟨hhi, hlo⟩, hhi', hlo'⟩ := hg .addr
  obtain ⟨od, hdata, hdata'⟩ := hg .data
  obtain ⟨os, hstrobes, hstrobes'⟩ := hg .strobes
  rw [h.cfg] at hhi' hlo'
  have hcontrol (p : Port) (hp : ¬ BusPort p) : t.dir.get p = s.dir.get p := by
    refine byte_ext fun i => ?_
    by_cases hq : ∃ g ∈ strobes, (⟨p, i⟩ : Pin) = s.cfg.pins.pin g
    · obtain ⟨g, hgs, e⟩ := hq
      have hsame : isOutput t (s.cfg.pins.pin g) = isOutput s (s.cfg.pins.pin g) := by
        rw [hstrobes g hgs, ← h.cfg, hstrobes' g hgs]
      rw [← e] at hsame
      exact getPin_dir_of_isOutput h.cfg hsame
    · push Not at hq
      exact h.others ⟨p, i⟩ (fun e => hp (.inl e)) (fun e => hp (.inr (.inl e))) (fun e => hp (.inr (.inr e))) hq
  refine Ports.ext_get fun p => ?_
  cases p with
  | addrHi => exact hhi'.trans hhi.symm
  | addrLo => exact hlo'.trans hlo.symm
  | dataLo =>
    have hdata'' : t.dir.dataLo = allPins s.cfg od := by rw [← h.cfg]; exact hdata'
    exact hdata''.trans hdata.symm
  | dataHi | ctrlA | ctrlB => exact hcontrol _ (by simp [BusPort])

/-! ### What a line does to the directions -/

/-- A fault or a kill has ended the operation. -/
def Harmed (t : State) : Prop := t.raised ≠ none ∨ t.killed = true

theorem raiseFault_ends {i : Instr} {k : Nat} {s : State} (hscope : scopeHandler i = none) (hq : s.seq = .running i k)
    (f : Fault) : (raiseFault f s).seq = .idle ∧ Harmed (raiseFault f s) := by
  simp [raiseFault, hq, hscope, Harmed]

theorem takeKill_ends (s : State) : (takeKill s).seq = .idle ∧ Harmed (takeKill s) := ⟨rfl, .inr rfl⟩

/-- The line goes on to the next one once it is done: no return, no fault, no loop, and a poll without a cleanup. -/
def goesOn (l : ProgLine) : Bool :=
  l.jump.isNone && match l.micro with
    | .ret | .fail _ | .whileArmed _ | .poll _ _ _ (some _) => false
    | _ => true

/-- The directions after a line that is done. -/
def lineDirections (c : Params) (m : Micro) (r : Ports) : Ports := (accessOf m).elim r fun p => directionsAfter c p r

/-- What line `k` has led to, of an operation without a scope, from the directions `r`: the operation has ended harmed, it
waits at the line, or the line is done and has left the directions `r'`. -/
def LineOutcome (i : Instr) (k : Nat) (r r' : Ports) (t : State) : Prop :=
  (t.seq = .idle ∧ Harmed t) ∨ (t.seq = .running i k ∧ t.dir = r) ∨ (t.seq = .running i (k + 1) ∧ t.dir = r')

section
variable {i : Instr} {k : Nat} {s : State} (hscope : scopeHandler i = none) (hq : s.seq = .running i k)
include hscope hq

/-- What follows an access in an operation without a scope: it is made, or the operation ends harmed. -/
theorem access_ends_or (p : Prim) (pos : Pos) (f : State → State) :
    (access p pos f s).seq = .idle ∧ Harmed (access p pos f s) ∨ access p pos f s = f (boundary s).1 := by
  have hq' : (boundary s).1.seq = .running i k := (boundary_kept s).seq.trans hq
  rcases access_cases p pos f s with ⟨hc, -⟩ | ⟨-, ⟨-, e⟩ | ⟨n, -, e⟩ | ⟨-, e⟩⟩
  · simp [hq', cancellable, hscope] at hc
  · exact .inr e
  · rw [e]
    exact .inl (raiseFault_ends hscope ((abortEffect_kept p n _).seq.trans hq') _)
  · rw [e]
    exact .inl (takeKill_ends _)

/-- What follows a sleep in an operation without a scope. -/
theorem sleepFor_ends_or (d : State → Quantity) (f : State → State) :
    (sleepFor d f s).seq = .idle ∧ Harmed (sleepFor d f s) ∨
      ∃ e now, sleepFor d f s = f (emit (.sleep e false) { (boundary (boundary s).1).1 with now := now }) := by
  have hq' : (boundary s).1.seq = .running i k := (boundary_kept s).seq.trans hq
  have hq'' : (boundary (boundary s).1).1.seq = .running i k := (boundary_kept _).seq.trans hq'
  unfold sleepFor
  simp only [hq', hq'', cancellable, hscope, Bool.false_and, Bool.false_eq_true, if_false]
  split
  · exact .inl (takeKill_ends _)
  · split
    · exact .inl (takeKill_ends _)
    · exact .inr ⟨_, _, rfl⟩

/-- What follows the failed sample of a poll without a cleanup. -/
theorem pollFailed_ends_or (w : Wait) :
    (pollFailed w none s).seq = .idle ∧ Harmed (pollFailed w none s) ∨
      (pollFailed w none s).seq = s.seq ∧ (pollFailed w none s).dir = s.dir := by
  unfold pollFailed
  split
  · exact .inr ⟨rfl, rfl⟩
  · split
    · exact .inl (raiseFault_ends hscope hq _)
    · exact .inr ⟨rfl, rfl⟩

/-- A poll without a cleanup at line `k`: its sample changes no direction, whether it is the last or not. -/
theorem polled_directions {l : ProgLine} (hl : l.jump = none) {p : Prim} (hread : ∀ c r, directionsAfter c p r = r)
    (ready : Prop) [Decidable ready] (w : Wait) :
    LineOutcome i k s.dir s.dir (if ready then advance k l (perform p s) else pollFailed w none (perform p s)) := by
  have hqp : (perform p s).seq = .running i k := (perform_kept p s).seq.trans hq
  have hdir : (perform p s).dir = s.dir := (perform_dir_eq p s).trans (hread _ _)
  split
  · exact .inr (.inr ⟨(advance_seq hqp).trans (by rw [placeAfter, hl]; rfl), hdir⟩)
  · rcases pollFailed_ends_or hscope hqp w with h | ⟨hseq, hdir'⟩
    · exact .inl h
    · exact .inr (.inl ⟨hseq.trans hqp, hdir'.trans hdir⟩)

/-- ALL THAT A LINE CAN DO TO THE DIRECTIONS: the operation ends harmed, a poll waits, or the line is done. -/
theorem doLine_directions {l : ProgLine} (hl : goesOn l = true) :
    LineOutcome i k s.dir (lineDirections s.cfg l.micro s.dir) (doLine k l s) := by
  obtain ⟨pos, micro, jump⟩ := l
  simp only [goesOn, Bool.and_eq_true, Option.isNone_iff_eq_none] at hl
  obtain ⟨rfl, hl⟩ := hl
  have hb := boundary_kept s
  have hq' : (boundary s).1.seq = .running i k := hb.seq.trans hq
  have hadvance {t : State} (m : Micro) (ht : t.seq = .running i k) :
      (advance k ⟨pos, m, none⟩ t).seq = .running i (k + 1) := advance_seq ht
  have hdone (p : Prim) : (perform p (boundary s).1).dir = directionsAfter s.cfg p s.dir := by
    rw [perform_dir_eq, hb.cfg, hb.dir]
  cases micro with
  | prim p =>
    simp only [doLine]
    rcases access_ends_or hscope hq p pos (fun t => advance k ⟨pos, .prim p, none⟩ (perform p t)) with h | e
    · exact .inl h
    · rw [e]
      exact .inr (.inr ⟨hadvance _ ((perform_kept p _).seq.trans hq'), hdone p⟩)
  | readData =>
    simp only [doLine]
    rcases access_ends_or hscope hq (.samplePort .dataLo) pos (fun t => advance k ⟨pos, .readData, none⟩
      { perform (.samplePort .dataLo) t with result := some (portIn t .dataLo) }) with h | e
    · exact .inl h
    · rw [e]
      exact .inr (.inr ⟨hadvance _ ((perform_kept (.samplePort .dataLo) _).seq.trans hq'), hdone _⟩)
  | poll g want w c =>
    cases c with
    | some c => cases hl
    | none =>
      simp only [doLine]
      rcases access_ends_or hscope hq (.sample g) pos _ with h | e
      · exact .inl h
      · rw [e]
        have h := polled_directions hscope hq' (l := ⟨pos, .poll g want w none, none⟩) rfl (p := .sample g)
          (fun _ _ => rfl) (sensed (boundary s).1 g = want) w
        rwa [hb.dir] at h
  | pollFlag =>
    simp only [doLine]
    rcases access_ends_or hscope hq (.iocFlag .m1) pos _ with h | e
    · exact .inl h
    · rw [e]
      have h := polled_directions hscope hq' (l := ⟨pos, .pollFlag, none⟩) rfl (p := .iocFlag .m1)
        (fun _ _ => rfl) (flagLatched (boundary s).1 .m1) .flagWait
      rwa [hb.dir] at h
  | sleep d | pace d =>
    simp only [doLine]
    rcases sleepFor_ends_or hscope hq _ _ with h | ⟨_, _, e⟩
    · exact .inl h
    · rw [e]
      exact .inr (.inr ⟨hadvance _ ((boundary_kept _).seq.trans hq'), (boundary_kept _).dir.trans hb.dir⟩)
  | armed =>
    simp only [doLine]
    rcases settle_cases (fun t => advance k ⟨pos, .armed, none⟩ (setArmed t)) s with ⟨_, e⟩ | ⟨_, e⟩
    · rw [e]
      exact .inl (takeKill_ends _)
    · rw [e]
      exact .inr (.inr ⟨hadvance _ hq', hb.dir⟩)
  | stampT0 | own | mode | disarmed => exact .inr (.inr ⟨hadvance _ hq, rfl⟩)
  | fail | ret | whileArmed => cases hl

end

/-! ### `RELEASE_BUS` floats the groups -/

/-- The groups that `RELEASE_BUS` has floated before its line `k` (R95). -/
def floatedBefore (k : Nat) : Group → Bool
  | .data => 2 ≤ k
  | .addr => 3 ≤ k
  | .strobes => 4 ≤ k

/-- Line `k` of `RELEASE_BUS` floats what must be floating after it, and drives no group. -/
def releaseLineChecked (k : Nat) (l : ProgLine) : Bool :=
  goesOn l && [Group.addr, .data, .strobes].all fun g =>
    accessOf l.micro != some (.drive g) && (!floatedBefore (k + 1) g || floatedBefore k g ||
      accessOf l.micro == some (.float g))

theorem releaseLineChecked_of_program {c : Params} {r : Bool} {k : Nat} {l : ProgLine}
    (hl : (programOf c (.releaseBus r))[k]? = some l) : releaseLineChecked k l = true := by
  have hall : ((programOf c (.releaseBus r)).zipIdx.all fun x => releaseLineChecked x.2 x.1) = true := by
    cases r <;> rfl
  exact List.all_eq_true.mp hall (l, k) (List.mk_mem_zipIdx_iff_getElem?.mpr hl)

/-- A group floats once it is floated, and until it is driven. -/
theorem groupAt_false_after {s t : State} (hc : s.cfg.pins.WellFormed) (hcfg : t.cfg = s.cfg) {m : Micro} {g : Group}
    (hdir : t.dir = lineDirections s.cfg m s.dir) (hdrive : accessOf m ≠ some (.drive g))
    (h : groupAt s g false ∨ accessOf m = some (.float g)) : groupAt t g false := by
  unfold lineDirections at hdir
  cases hm : accessOf m with
  | none =>
    rw [hm] at hdir h
    exact (groupAt_congr hcfg hdir g false).mpr (h.resolve_right nofun)
  | some p =>
    rw [hm] at hdir hdrive h
    cases p with
    | float k =>
      by_cases e : g = k
      · subst e
        exact groupAt_groupDirections hcfg hdir
      · exact groupAt_groupDirections_other hc hcfg hdir e (h.resolve_right (by simp [Ne.symm e]))
    | drive k =>
      exact groupAt_groupDirections_other hc hcfg hdir (fun e => hdrive (by rw [e])) (h.resolve_right (by simp))
    | _ => exact (groupAt_congr hcfg hdir g false).mpr (h.resolve_right (by simp))

/-- Where a run of `RELEASE_BUS` stands: ended harmed, at a line with the groups before it floated, or returned with all
of them floating. -/
def Releasing (r : Bool) (u : State) : Prop :=
  (u.seq = .idle ∧ Harmed u) ∨
    (∃ k, u.seq = .running (.releaseBus r) k ∧ ∀ g, floatedBefore k g = true → groupAt u g false) ∨
    (u.seq = .idle ∧ ∀ g, groupAt u g false)

theorem Releasing.tick {c : Params} (hc : c.pins.WellFormed) {r : Bool} {u : State} (hcfg : u.cfg = c) {k : Nat}
    (hq : u.seq = .running (.releaseBus r) k) (hk : ∀ g, floatedBefore k g = true → groupAt u g false) :
    Releasing r (tick (programOf c (.releaseBus r)) u) := by
  subst hcfg
  cases hl : (programOf u.cfg (.releaseBus r))[k]? with
  | none =>
    rw [tick_end hq hl]
    refine .inr (.inr ⟨rfl, fun g => hk g ?_⟩)
    have hend := ended_of_past hl
    cases r <;> simp [ended] at hend <;> cases g <;> simp [floatedBefore] <;> omega
  | some l =>
    have hcheck := releaseLineChecked_of_program hl
    simp only [releaseLineChecked, Bool.and_eq_true, List.all_eq_true] at hcheck
    obtain ⟨hgoes, hgroups⟩ := hcheck
    have htick := (groupsOnly_law.tick (programOf_programmed u.cfg (.releaseBus r)) u).cfg
    rw [tick_line hq hl] at htick ⊢
    rcases doLine_directions (i := .releaseBus r) rfl hq hgoes with h | ⟨hseq, hdir⟩ | ⟨hseq, hdir⟩
    · exact .inl h
    · exact .inr (.inl ⟨k, hseq, fun g hg => (groupAt_congr htick hdir g false).mpr (hk g hg)⟩)
    · refine .inr (.inl ⟨k + 1, hseq, fun g hg => ?_⟩)
      have hline := hgroups g (by cases g <;> decide)
      simp only [bne_iff_ne, Bool.or_eq_true, Bool.not_eq_true', beq_iff_eq, hg] at hline
      obtain ⟨hdrive, hfloat⟩ := hline
      refine groupAt_false_after hc htick hdir hdrive ?_
      rcases hfloat with (h | h) | h
      · cases h
      · exact .inl (hk g h)
      · exact .inr h

/-- `RELEASE_BUS` that returns without a fault and without a kill leaves every group floating (R95). -/
theorem execReleaseBus_floats {s t : State} {r : Bool} (hc : s.cfg.pins.WellFormed)
    (h : exec (.releaseBus r) s = .next t) (hidle : t.seq = .idle) (hraised : t.raised = none)
    (halive : t.killed = false) (g : Group) : groupAt t g false := by
  obtain ⟨_, _, rfl⟩ := exec_next h
  have hrun : (runOp (programOf s.cfg (.releaseBus r)) (beginOp (.releaseBus r) s)).cfg = s.cfg ∧
      Releasing r (runOp (programOf s.cfg (.releaseBus r)) (beginOp (.releaseBus r) s)) := by
    refine runProg_induct (P := fun u => u.cfg = s.cfg ∧ Releasing r u) (fun u i k hq hu => ?_) _ ⟨rfl, .inr (.inl
      ⟨0, rfl, fun g hg => by cases g <;> cases hg⟩)⟩
    obtain ⟨hcfg, hplace⟩ := hu
    refine ⟨(groupsOnly_law.tick (programOf_programmed s.cfg (.releaseBus r)) u).cfg.trans hcfg, ?_⟩
    rcases hplace with ⟨hi, _⟩ | ⟨j, hj, hfloat⟩ | ⟨hi, _⟩
    · cases hq.symm.trans hi
    · exact Releasing.tick hc hcfg hj hfloat
    · cases hq.symm.trans hi
  rcases hrun.2 with ⟨_, hr | hk⟩ | ⟨k, hq, _⟩ | ⟨_, hg⟩
  · exact absurd hraised hr
  · cases halive.symm.trans hk
  · cases hidle.symm.trans hq
  · exact hg g

/-- The last of several operations, and the state it is issued in. -/
theorem runAll_last {l : List Instr} {i : Instr} {s t : State} (h : runAll (l ++ [i]) s = some t) :
    ∃ u, runAll l s = some u ∧ exec i u = .next t ∧ t.seq = .idle ∧ t.raised = none ∧ t.killed = u.killed := by
  induction l generalizing s with
  | nil =>
    simp only [List.nil_append, runAll] at h
    split at h
    · next u hu =>
      split at h
      · next hend =>
        cases h
        exact ⟨s, rfl, hu, hend⟩
      · cases h
    all_goals cases h
  | cons j l ih =>
    simp only [List.cons_append, runAll] at h ⊢
    split at h
    · next hu =>
      split at h
      · next hend =>
        obtain ⟨v, hv, hlast⟩ := ih h
        exact ⟨v, by rwa [if_pos hend], hlast⟩
      · cases h
    all_goals cases h

theorem runAll_killed {l : List Instr} {s t : State} (h : runAll l s = some t) : t.killed = s.killed := by
  induction l generalizing s with
  | nil =>
    cases h
    rfl
  | cons i l ih =>
    unfold runAll at h
    split at h
    · split at h
      · next hend => exact (ih h).trans hend.2.2
      · cases h
    all_goals cases h

/-- Settles O27: no operation writes a direction outside the groups, and the groups float before and after. -/
theorem handshakeSymmetry : Obligations.HandshakeSymmetry := by
  intro s t bank cycles reset hwf hkilled _ haddr hstrobes hdata _ hrun
  have hgroups := runAll_groupsOnly hrun
  rw [← List.cons_append] at hrun
  obtain ⟨u, hu, hexec, hidle, hraised, halive⟩ := runAll_last hrun
  have hcfg := (runAll_groupsOnly hu).cfg
  have hfloats := execReleaseBus_floats (by rw [hcfg]; exact hwf.1) hexec hidle hraised
    (halive.trans ((runAll_killed hu).trans hkilled))
  refine hgroups.dir_eq fun g => ⟨false, ?_, hfloats g⟩
  cases g with
  | addr => exact haddr
  | data => exact hdata
  | strobes => exact hstrobes

end Sys2Proof.Machine
end

section
/-! Runs that nothing disturbs, counted in ticks: primitives one after another, a sleep, an assignment, a poll. -/

namespace Sys2Proof.Machine

/-! ### Ticks -/

/-- The first `n` ticks of a run from `s` lead to `t`. -/
def Reaches (prog : List ProgLine) (n : Nat) (s t : State) : Prop := ∀ m, runProg prog (m + n) s = runProg prog m t

section
variable {prog : List ProgLine} {i : Instr} {k : Nat} {s t u : State}

theorem Reaches.refl : Reaches prog 0 s s := fun _ => rfl

theorem Reaches.trans {n m : Nat} (h : Reaches prog n s t) (h' : Reaches prog m t u) : Reaches prog (n + m) s u := by
  intro x
  rw [Nat.add_comm n m, ← Nat.add_assoc, h, h']

/-- A tick after which the sequencer does not wait. -/
theorem Reaches.of_tick (hq : s.seq = .running i k) (ht : tick prog s = t) (hp : parked s.seq t.seq t.env = false) :
    Reaches prog 1 s t := by
  intro m
  rw [runProg_forward m hq (by rwa [ht]), ht]

theorem Reaches.next (hq : s.seq = .running i k) (ht : tick prog s = t) {j : Instr} {m : Nat}
    (hseq : t.seq = .running j m) (hlt : k < m) : Reaches prog 1 s t :=
  .of_tick hq ht (by rw [hseq]; exact parked_forward hq hlt)

theorem Reaches.ended (hq : s.seq = .running i k) (ht : tick prog s = t) (hidle : t.seq = .idle) : Reaches prog 1 s t :=
  .of_tick hq ht (by rw [hidle]; exact parked_idle _ _)

/-- There is fuel for a tick of each line, and for one more at each slot of the script. -/
theorem le_runFuel {n : Nat} (h : n ≤ prog.length + 1 + s.env.length) : n ≤ runFuel prog s := by
  unfold runFuel
  rw [Nat.mul_add_one, Nat.add_one_mul]
  omega

theorem Reaches.runOp_eq {n : Nat} (h : Reaches prog n s t) (hn : n ≤ prog.length + 1 + s.env.length)
    (hidle : t.seq = .idle) : runOp prog s = t := by
  obtain ⟨m, hm⟩ := Nat.exists_eq_add_of_le' (le_runFuel hn)
  unfold runOp
  rw [hm, h, runProg_idle m hidle]

/-- A run that comes to a line at which the sequencer waits stops there. -/
theorem Reaches.runOp_waits {n : Nat} (h : Reaches prog n s t) (hn : n ≤ prog.length + s.env.length)
    (hq : t.seq = .running i k) (hp : parked t.seq (tick prog t).seq (tick prog t).env = true) :
    runOp prog s = tick prog t := by
  obtain ⟨m, hm⟩ := Nat.exists_eq_add_of_le' (le_runFuel (prog := prog) (s := s) (n := n + 1) (by omega))
  unfold runOp
  rw [hm, show m + (n + 1) = m + 1 + n by omega, h, runProg_parked m hq hp]

end

/-! ### Primitives -/

theorem afterPrims_cfg (k : Nat) (ps : List Prim) (s : State) : (afterPrims k ps s).cfg = s.cfg :=
  (afterPrims_records k ps s).flags.1

theorem afterPrims_env (k : Nat) (ps : List Prim) (s : State) : (afterPrims k ps s).env = s.env.drop ps.length := by
  induction ps generalizing k s with
  | nil => rfl
  | cons p ps ih => rw [afterPrims, ih, afterPrim_env, List.length_cons, List.drop_tail]

theorem afterPrim_trace (k : Nat) {p : Prim} (hp : reads p = false) (s : State) :
    (afterPrim k p s).trace = s.trace ++ [eventOf p s] :=
  afterPrims_trace (ps := [p]) (by simpa using hp) k s

theorem afterPrim_iocSetup (k : Nat) {p : Prim} (hp : configures p = false) (s : State) : IocSetupKept s (afterPrim k p s) :=
  afterPrims_iocSetup (ps := [p]) (by simpa using hp) k s

theorem afterPrims_seq {i : Instr} {k : Nat} {s : State} (hq : s.seq = .running i k) (ps : List Prim) :
    (afterPrims k ps s).seq = .running i (k + ps.length) := by
  induction ps generalizing k s with
  | nil => exact hq
  | cons p ps ih => rw [afterPrims, ih (afterPrim_seq hq p), List.length_cons, Nat.add_assoc, Nat.add_comm 1]

/-- What is left of a sound script is sound. -/
theorem sound_of_drop {s t : State} (h : Sound s) (hcfg : t.cfg = s.cfg) {n : Nat} (henv : t.env = s.env.drop n) :
    Sound t := by
  intro l hl
  rw [henv] at hl
  rw [hcfg]
  exact h l (List.mem_of_mem_drop hl)

theorem afterPrims_sound {s : State} (h : Sound s) (k : Nat) (ps : List Prim) : Sound (afterPrims k ps s) :=
  sound_of_drop h (afterPrims_cfg k ps s) (afterPrims_env k ps s)

section
variable {prog : List ProgLine} {i : Instr} {k : Nat} {s : State} (hscope : scopeHandler i = none)
include hscope

theorem reaches_prims {ps : List Prim} (hq : s.seq = .running i k) (hprog : PrimsAt prog k ps) (hsound : Sound s) :
    Reaches prog ps.length s (afterPrims k ps s) := by
  intro n
  rcases runProg_prims_cases hscope n hq hprog with ⟨_, e⟩ | hd
  · exact e
  · exact absurd hsound hd.not_sound

end

/-! ### A sleep -/

/-- No cancellation is taken at the boundary before the line. -/
def Untaken (s : State) : Prop := (cancellable (boundary s).1.seq && (boundary s).1.cancel) = false

theorem untaken_of_scopeless {i : Instr} {k : Nat} {s : State} (hscope : scopeHandler i = none)
    (hq : s.seq = .running i k) : Untaken s := by
  simp [Untaken, (boundary_kept s).seq, hq, cancellable, hscope]

/-- The state after line `k`, a sleep, with the boundaries before it and inside it. -/
def afterSleep (k : Nat) (d : Quantity) (s : State) : State :=
  jumpTo (k + 1) (emit (.sleep d false)
    { (boundary (boundary s).1).1 with now := (boundary (boundary s).1).1.now + d })

theorem afterSleep_records (k : Nat) (d : Quantity) (s : State) : RecordsStand s (afterSleep k d s) :=
  ((boundary_kept s).records.trans (boundary_kept _).records).trans
    ⟨⟨rfl, rfl, rfl, rfl, rfl, rfl, rfl, rfl, rfl⟩, rfl, rfl⟩

theorem afterSleep_env (k : Nat) (d : Quantity) (s : State) : (afterSleep k d s).env = s.env.drop 2 := by
  show (boundary (boundary s).1).1.env = _
  rw [boundary_env, boundary_env, ← List.drop_one, ← List.drop_one, List.drop_drop]

theorem afterSleep_seq {i : Instr} {k : Nat} {s : State} (hq : s.seq = .running i k) (d : Quantity) :
    (afterSleep k d s).seq = .running i (k + 1) := by
  simp [afterSleep, jumpTo, emit, (boundary_kept _).seq, hq]

theorem afterSleep_out (k : Nat) (d : Quantity) (s : State) : (afterSleep k d s).out = s.out :=
  (boundary_kept _).out.trans (boundary_kept s).out

theorem afterSleep_dir (k : Nat) (d : Quantity) (s : State) : (afterSleep k d s).dir = s.dir :=
  (boundary_kept _).dir.trans (boundary_kept s).dir

theorem afterSleep_trace (k : Nat) (d : Quantity) (s : State) :
    (afterSleep k d s).trace = s.trace ++ [.sleep d false] := by
  show (boundary (boundary s).1).1.trace ++ _ = _
  rw [(boundary_kept _).trace, (boundary_kept s).trace]

theorem afterSleep_iocSetup (k : Nat) (d : Quantity) (s : State) : IocSetupKept s (afterSleep k d s) :=
  ⟨(boundary_kept _).en.trans (boundary_kept s).en, (boundary_kept _).dflt.trans (boundary_kept s).dflt,
    (boundary_kept _).cmp.trans (boundary_kept s).cmp⟩

theorem reaches_sleep {prog : List ProgLine} {i : Instr} {k : Nat} {s : State} {pos : Pos} {d : Quantity}
    (hscope : scopeHandler i = none) (hq : s.seq = .running i k) (hl : prog[k]? = some ⟨pos, .sleep d, none⟩)
    (hsound : Sound s) : Reaches prog 1 s (afterSleep k d s) := by
  obtain ⟨hok, hsound'⟩ := boundary_sound hsound
  obtain ⟨hok', _⟩ := boundary_sound hsound'
  have hq' : (boundary s).1.seq = .running i k := (boundary_kept s).seq.trans hq
  have hkill : (boundary s).2 ≠ .kill := by rw [hok]; exact nofun
  have hkill' : (boundary (boundary s).1).2 ≠ .kill := by rw [hok']; exact nofun
  refine .next hq ?_ (afterSleep_seq hq d) (Nat.lt_succ_self k)
  rw [tick_line hq hl]
  exact sleepFor_ok (d := fun _ => d) (k := advance k ⟨pos, .sleep d, none⟩) (untaken_of_scopeless hscope hq) hkill
    (untaken_of_scopeless hscope hq') hkill'

/-! ### `own` -/

/-- The state after line `k`, an assignment to `own`. -/
def afterOwn (k : Nat) (o : BusOwnership) (s : State) : State := jumpTo (k + 1) (setOwn o s)

theorem afterOwn_seq {i : Instr} {k : Nat} {s : State} (hq : s.seq = .running i k) (o : BusOwnership) :
    (afterOwn k o s).seq = .running i (k + 1) := by
  simp [afterOwn, jumpTo, hq]

theorem afterOwn_records (k : Nat) (o : BusOwnership) (s : State) : RecordsStand (setOwn o s) (afterOwn k o s) :=
  jumpTo_records _ _

/-- The records stand aside from `own`. -/
theorem RecordsStand.setOwn {s t : State} (h : RecordsStand s t) (o : BusOwnership) :
    RecordsStand (setOwn o s) (Machine.setOwn o t) := by
  obtain ⟨⟨hcfg, _, hrest⟩, hraised, hresult⟩ := h
  exact ⟨⟨hcfg, rfl, hrest⟩, hraised, hresult⟩

theorem reaches_own {prog : List ProgLine} {i : Instr} {k : Nat} {s : State} {pos : Pos} {o : BusOwnership}
    (hq : s.seq = .running i k) (hl : prog[k]? = some ⟨pos, .own o, none⟩) : Reaches prog 1 s (afterOwn k o s) :=
  .next hq (tick_line hq hl) (afterOwn_seq hq o) (Nat.lt_succ_self k)

/-! ### A poll -/

/-- Line `l` polls with the primitive `p`, which succeeds where `ready` holds (R98). -/
structure PollLine (l : ProgLine) (p : Prim) (ready : State → Bool) (w : Wait) (c : Option Nat) : Prop where
  noJump : l.jump = none
  line : ∀ k s, doLine k l s = access p l.pos
    (fun t => if ready t = true then advance k l (perform p t) else pollFailed w c (perform p t)) s

/-- The sample of `PollUntil(g, want)` (R98). -/
def senses (g : Signal) (want : Bool) (s : State) : Bool := sensed s g == want

theorem pollLine_poll (pos : Pos) (g : Signal) (want : Bool) (w : Wait) (c : Option Nat) :
    PollLine ⟨pos, .poll g want w c, none⟩ (.sample g) (senses g want) w c := by
  refine ⟨rfl, fun k s => ?_⟩
  simp only [doLine, senses, beq_iff_eq]

theorem pollLine_flag (pos : Pos) :
    PollLine ⟨pos, .pollFlag, none⟩ (.iocFlag .m1) (fun s => flagLatched s .m1) .flagWait none :=
  ⟨rfl, fun _ _ => rfl⟩

/-- The state after a sample that fails and does not time out. -/
def failedSample (p : Prim) (s : State) : State :=
  { perform p (boundary s).1 with polls := s.polls + 1 }

/-- The poll does not time out at its next failed sample (R98). -/
def Patient (s : State) : Prop := ∀ n ∈ s.cfg.pollLimit, s.polls + 1 < n

section
variable {prog : List ProgLine} {i : Instr} {k : Nat} {l : ProgLine} {p : Prim} {ready : State → Bool} {w : Wait}
  {c : Option Nat} {s : State}

theorem failedSample_seq (p : Prim) (s : State) : (failedSample p s).seq = s.seq :=
  (perform_kept p _).seq.trans (boundary_kept s).seq

theorem failedSample_env (p : Prim) (s : State) : (failedSample p s).env = s.env.tail :=
  (perform_kept p _).env.trans (boundary_env s)

theorem failedSample_records (p : Prim) (s : State) : RecordsStand s (failedSample p s) :=
  ((boundary_kept s).records.trans (perform_kept p _).records).trans
    ⟨⟨rfl, rfl, rfl, rfl, rfl, rfl, rfl, rfl, rfl⟩, rfl, rfl⟩

theorem tick_poll (hl : PollLine l p ready w c) (hq : s.seq = .running i k) (hk : prog[k]? = some l) (hu : Untaken s)
    (hok : (boundary s).2 = .ok) :
    tick prog s = if ready (boundary s).1 = true then afterPrim k p s else pollFailed w c (perform p (boundary s).1) := by
  rw [tick_line hq hk, hl.line, access_ok hu hok]
  unfold advance
  rw [hl.noJump]
  rfl

theorem tick_poll_ready (hl : PollLine l p ready w c) (hq : s.seq = .running i k) (hk : prog[k]? = some l)
    (hu : Untaken s) (hok : (boundary s).2 = .ok) (hr : ready (boundary s).1 = true) :
    tick prog s = afterPrim k p s := by
  rw [tick_poll hl hq hk hu hok, if_pos hr]

/-- A failed sample counts, or it is the last one before the timeout. -/
theorem pollFailed_counts (hlimit : ∀ n ∈ s.cfg.pollLimit, s.polls + 1 < n) :
    pollFailed w c s = { s with polls := s.polls + 1 } := by
  unfold pollFailed
  cases e : s.cfg.pollLimit with
  | none => rfl
  | some n => exact if_neg (Nat.not_le.mpr (hlimit n e))

theorem pollFailed_timesOut {n : Nat} (hlimit : s.cfg.pollLimit = some n) (hn : n ≤ s.polls + 1) :
    pollFailed w c s = timeOut w c s := by
  unfold pollFailed
  rw [hlimit]
  exact if_pos hn

theorem sampled_counts (p : Prim) (s : State) :
    (perform p (boundary s).1).cfg = s.cfg ∧ (perform p (boundary s).1).polls = s.polls :=
  ⟨(perform_kept p _).cfg.trans (boundary_kept s).cfg, (perform_kept p _).polls.trans (boundary_kept s).polls⟩

theorem tick_poll_failed (hl : PollLine l p ready w c) (hq : s.seq = .running i k) (hk : prog[k]? = some l)
    (hu : Untaken s) (hok : (boundary s).2 = .ok) (hr : ready (boundary s).1 = false) (hp : Patient s) :
    tick prog s = failedSample p s := by
  obtain ⟨hcfg, hpolls⟩ := sampled_counts p s
  rw [tick_poll hl hq hk hu hok, hr, if_neg Bool.false_ne_true,
    pollFailed_counts (by rwa [hcfg, hpolls]), hpolls]
  rfl

theorem tick_poll_timeOut (hl : PollLine l p ready w c) (hq : s.seq = .running i k) (hk : prog[k]? = some l)
    (hu : Untaken s) (hok : (boundary s).2 = .ok) (hr : ready (boundary s).1 = false) {n : Nat}
    (hlimit : s.cfg.pollLimit = some n) (hn : n ≤ s.polls + 1) :
    tick prog s = timeOut w c (perform p (boundary s).1) := by
  obtain ⟨hcfg, hpolls⟩ := sampled_counts p s
  rw [tick_poll hl hq hk hu hok, hr, if_neg Bool.false_ne_true,
    pollFailed_timesOut (by rwa [hcfg]) (by rwa [hpolls])]

theorem reaches_poll_ready (hl : PollLine l p ready w c) (hq : s.seq = .running i k) (hk : prog[k]? = some l)
    (hu : Untaken s) (hok : (boundary s).2 = .ok) (hr : ready (boundary s).1 = true) :
    Reaches prog 1 s (afterPrim k p s) :=
  .next hq (tick_poll_ready hl hq hk hu hok hr) (afterPrim_seq hq p) (Nat.lt_succ_self k)

end

end Sys2Proof.Machine
end

section
/-! What undisturbed lines leave of the target: nothing happens at boundaries that are idle, or before a target that is off
the bus, and the board does nothing where no window is open. -/

namespace Sys2Proof.Machine

/-! ### Lines after a primitive -/

theorem getPin_latchesAfter {c : Params} (hc : c.pins.WellFormed) {p : Prim} (hp : Programmed p) {g : Signal}
    (hset : p ≠ .assert g) (hclear : p ≠ .deassert g) (hclk : ∀ l, p = .clkOut l → g ≠ .clkout) (r : Ports) :
    getPin (latchesAfter c p r) (c.pins.pin g) = getPin r (c.pins.pin g) := by
  cases p with
  | assert k => exact getPin_setPin_other _ _ (PinMap.WellFormed.pin_ne hc fun e => hset (by rw [e]))
  | deassert k => exact getPin_setPin_other _ _ (PinMap.WellFormed.pin_ne hc fun e => hclear (by rw [e]))
  | clkOut l => exact getPin_setPin_other _ _ (PinMap.WellFormed.pin_ne hc (hclk l rfl))
  | latch q v => exact getPin_set_busPort hc hp _ _ g
  | drive | float | samplePort | sample | iocConfig | iocFlag => rfl

/-- A primitive that is not about a signal leaves its line, where no primitive changes the signal's direction. -/
theorem line_perform_other {s : State} (hc : s.cfg.pins.WellFormed) {p : Prim} (hp : Programmed p) {g : Signal}
    (hg : g ∉ strobes) (hset : p ≠ .assert g) (hclear : p ≠ .deassert g) (hclk : ∀ l, p = .clkOut l → g ≠ .clkout) :
    line (perform p s) g = line s g := by
  have hcfg := (perform_kept p s).cfg
  have hout := (rolesFixed_law.perform hp s).output hc g hg
  unfold line
  rw [hcfg, hout, perform_out_eq, getPin_latchesAfter hc hp hset hclear hclk]

/-- A strobe's direction is that of its group (R76). -/
theorem isOutput_strobe_perform {s : State} (hc : s.cfg.pins.WellFormed) {p : Prim} (hp : p ≠ .drive .strobes)
    {g : Signal} (hg : g ∈ strobes) (h : isOutput s (s.cfg.pins.pin g) = false) :
    isOutput (perform p s) (s.cfg.pins.pin g) = false := by
  have hcfg := (perform_kept p s).cfg
  unfold isOutput at h ⊢
  rw [hcfg, perform_dir_eq]
  cases p with
  | drive k => rwa [directionsAfter, getPin_groupDirections hc fun e => hp (by rw [e])]
  | float k =>
    by_cases e : k = .strobes
    · subst e
      simp only [directionsAfter, groupDirections]
      rw [getPin_setSignals_mem hg, dirBit_bne]
    · rwa [directionsAfter, getPin_groupDirections hc e]
  | assert | deassert | clkOut | latch | samplePort | sample | iocConfig | iocFlag => exact h

/-- The primitive neither asserts a strobe nor drives the strobes. -/
def spares (p : Prim) : Bool := p != .drive .strobes && strobes.all fun g => p != .assert g

/-- A line that is not asserted floats, or its latch is inactive. -/
theorem asserts_eq_false_iff {s : State} {g : Signal} :
    asserts s g = false ↔ isOutput s (s.cfg.pins.pin g) = false ∨ latchAt s g false := by
  refine ⟨fun h => ?_, fun h => ?_⟩
  · rw [or_iff_not_imp_left, Bool.not_eq_false]
    intro hout
    obtain ⟨active, ha⟩ := exists_latchAt s g
    cases active with
    | false => exact ha
    | true =>
      rw [asserts, line_of_latch hout ha] at h
      cases h
  · rcases h with hfloat | hlatch
    · rw [asserts, line_floating hfloat]
      rfl
    · exact asserts_of_latch hlatch

theorem StrobesQuiet.perform {s : State} (hc : s.cfg.pins.WellFormed) {p : Prim} (hp : Programmed p)
    (hspares : spares p = true) (h : StrobesQuiet s) : StrobesQuiet (perform p s) := by
  simp only [spares, Bool.and_eq_true, bne_iff_ne, List.all_eq_true] at hspares
  obtain ⟨hdrive, hassert⟩ := hspares
  intro g hg
  rcases asserts_eq_false_iff.mp (h g hg) with hfloat | hlatch
  · refine asserts_eq_false_iff.mpr (.inl ?_)
    rw [(perform_kept p s).cfg]
    exact isOutput_strobe_perform hc hdrive hg hfloat
  · have h' := perform_latches hc hp g (strobe_ne_clkout hg) false hlatch
    have hstay : tracked (some p) (.assert g) (.deassert g) false = false := by
      simp [tracked, hassert g hg]
    rw [hstay] at h'
    exact asserts_of_latch h'

/-! ### The windows -/

/-- No window is open. -/
structure Shut (s : State) : Prop where
  memWrite : memWriteWindow s = false
  ioWrite : ioWriteWindow s = false
  ioRead : ioReadWindow s = false

theorem StrobesQuiet.shut {s : State} (h : StrobesQuiet s) : Shut s := by
  obtain ⟨hm, hw, hr⟩ := h.windows
  exact ⟨hm, hw, hr⟩

theorem SameLines.shut {s t : State} (h : SameLines s t) (ht : Shut t) : Shut s := by
  obtain ⟨hm, hw, hr⟩ := ht
  simp only [memWriteWindow, ioWriteWindow, ioReadWindow, h.asserts] at hm hw hr
  exact ⟨hm, hw, hr⟩

/-- The primitive changes none of the lines that the board's clock and reset follow. -/
def steady : Prim → Bool
  | .assert g | .deassert g => g != .reset && g != .clken && g != .clkout
  | .clkOut _ => false
  | .drive _ | .float _ | .latch _ _ | .samplePort _ | .sample _ | .iocConfig _ _ _ | .iocFlag _ => true

theorem perform_steady {s : State} (hc : s.cfg.pins.WellFormed) {p : Prim} (hp : Programmed p) (hs : steady p = true) :
    line (perform p s) .reset = line s .reset ∧ line (perform p s) .clken = line s .clken ∧
      clkoutHigh (perform p s) = clkoutHigh s := by
  have hne (g : Signal) (hg : g ∈ [Signal.reset, .clken, .clkout]) :
      p ≠ .assert g ∧ p ≠ .deassert g ∧ ∀ l, p = .clkOut l → g ≠ .clkout := by
    refine ⟨?_, ?_, ?_⟩
    · rintro rfl
      revert hg hs
      cases g <;> decide
    · rintro rfl
      revert hg hs
      cases g <;> decide
    · rintro l rfl
      cases hs
  obtain ⟨hset, hclear, hclk⟩ := hne .reset (by decide)
  obtain ⟨hset', hclear', hclk'⟩ := hne .clken (by decide)
  obtain ⟨hset'', hclear'', hclk''⟩ := hne .clkout (by decide)
  refine ⟨line_perform_other hc hp (by decide) hset hclear hclk,
    line_perform_other hc hp (by decide) hset' hclear' hclk', ?_⟩
  unfold clkoutHigh
  rw [(perform_kept p s).cfg, perform_out_eq]
  exact getPin_latchesAfter hc hp hset'' hclear'' hclk'' s.out

/-- A register write that leaves every window shut reaches nothing. -/
theorem react_shut {old new : State} (hshut : Shut new) (hreset : line new .reset = line old .reset)
    (hclken : line new .clken = line old .clken) (hclkout : clkoutHigh new = clkoutHigh old) : react old new = new :=
  react_none (acting_closed hshut.memWrite) (acting_closed hshut.ioWrite) (acting_closed hshut.ioRead)
    (by rw [asserts, hreset, asserts]) hclken fun _ => hclkout

/-- A whole-port direction of a bus port changes no line (R13). -/
theorem storeWrite_dirPort_sameLines {s : State} (hc : s.cfg.pins.WellFormed) {p : Port} (hp : BusPort p) (o : Bool) :
    SameLines s (storeWrite (.dirPort p o) s) := by
  refine ⟨fun g => ?_, rfl⟩
  unfold line isOutput storeWrite
  dsimp only
  rw [getPin_set_busPort hc hp]

theorem applyWrites_dirPorts_unseen {s : State} (hc : s.cfg.pins.WellFormed) (o : Bool) {ps : List Port}
    (hps : ∀ p ∈ ps, BusPort p) (hshut : Shut s) :
    (applyWrites s (ps.map fun p => .dirPort p o)).target = s.target := by
  induction ps generalizing s with
  | nil => rfl
  | cons p ps ih =>
    have hlines := storeWrite_dirPort_sameLines hc (hps p (List.mem_cons_self ..)) o
    have hback : SameLines (storeWrite (.dirPort p o) s) s :=
      ⟨fun g => (hlines.line g).symm, hlines.clkout.symm⟩
    have e : applyWrite s (.dirPort p o) = storeWrite (.dirPort p o) s :=
      react_shut (hback.shut hshut) (hlines.line _) (hlines.line _) hlines.clkout
    show (applyWrites (applyWrite s (.dirPort p o)) (ps.map _)).target = s.target
    rw [e]
    exact ih (s := storeWrite (.dirPort p o) s) hc (fun x hx => hps x (List.mem_cons_of_mem _ hx)) (hback.shut hshut)

theorem addrPorts_busPort (c : Params) : ∀ p ∈ addrPorts c, BusPort p := by
  unfold addrPorts
  split <;> simp [BusPort]

/-- Driving or floating ADDR changes no line (R13). -/
theorem sameLines_perform_addr {s : State} (hc : s.cfg.pins.WellFormed) {p : Prim} {o : Bool}
    (hp : p = if o then .drive .addr else .float .addr) : SameLines s (perform p s) := by
  have hdir : (perform p s).dir = groupDirections s.cfg o s.dir .addr := by
    rw [perform_dir_eq]
    cases o <;> simp [hp, directionsAfter]
  have hout : (perform p s).out = s.out := by
    rw [perform_out_eq]
    cases o <;> simp [hp, latchesAfter]
  have hcfg := (perform_kept p s).cfg
  refine ⟨fun g => ?_, by unfold clkoutHigh; rw [hcfg, hout]⟩
  unfold line isOutput
  rw [hcfg, hout, hdir, getPin_groupDirections hc (by decide)]

/-- WHERE NO WINDOW IS OPEN after a primitive, and it is not about RESET or the clock, the target sees nothing of it. -/
theorem perform_unseen {s : State} (hc : s.cfg.pins.WellFormed) {p : Prim} (hp : Programmed p) (hs : steady p = true)
    (hshut : Shut (perform p s)) : (perform p s).target = s.target := by
  obtain ⟨hreset, hclken, hclkout⟩ := perform_steady hc hp hs
  have hsingle (w : RegWrite) (hw : accessEffect p s = applyWrite s w) (hkeep : (storeWrite w s).target = s.target) :
      (perform p s).target = s.target := by
    have hlines : SameLines (storeWrite w s) (perform p s) := by
      refine .of_registers ?_ ?_ ?_
      · rw [(perform_kept p s).cfg, (storeWrite_kept w s).cfg]
      · rw [perform_dir, hw, applyWrite_dir]
      · rw [perform_out, hw, applyWrite_out]
    have hreact : react s (storeWrite w s) = storeWrite w s :=
      react_shut (hlines.shut hshut) ((hlines.line _).symm.trans hreset) ((hlines.line _).symm.trans hclken)
        (hlines.clkout.symm.trans hclkout)
    have hmade : (perform p s).target = (react s (storeWrite w s)).target := by
      rw [show (perform p s).target = (accessEffect p s).target from rfl, hw]
      rfl
    rw [hmade, hreact, hkeep]
  have haddr (o : Bool) (he : p = if o then .drive .addr else .float .addr)
      (hw : accessEffect p s = applyWrites s (groupWrites s.cfg .addr o)) : (perform p s).target = s.target := by
    rw [show (perform p s).target = (accessEffect p s).target from rfl, hw]
    exact applyWrites_dirPorts_unseen hc o (addrPorts_busPort s.cfg) ((sameLines_perform_addr hc he).shut hshut)
  cases p with
  | drive g =>
    cases g with
    | addr => exact haddr true rfl rfl
    | data => exact hsingle (.dirPort .dataLo true) rfl rfl
    | strobes => exact hsingle (.dirStrobes true) rfl rfl
  | float g =>
    cases g with
    | addr => exact haddr false rfl rfl
    | data => exact hsingle (.dirPort .dataLo false) rfl rfl
    | strobes => exact hsingle (.dirStrobes false) rfl rfl
  | assert | deassert | latch => exact hsingle _ rfl rfl
  | iocConfig g f v => cases f <;> exact hsingle (.iocBit _ _ v) rfl rfl
  | clkOut => cases hs
  | samplePort | sample | iocFlag => rfl

/-! ### Boundaries at which nothing reaches the target -/

/-- The next `n` boundaries are idle. -/
def IdleFor (n : Nat) (s : State) : Prop := ∀ l ∈ s.env.take n, l = idleSlot

theorem Quiet.idleFor {s : State} (h : Quiet s) (n : Nat) : IdleFor n s := fun l hl => h l (List.mem_of_mem_take hl)

theorem IdleFor.mono {n m : Nat} {s : State} (h : IdleFor n s) (hm : m ≤ n) : IdleFor m s := by
  intro l hl
  refine h l ?_
  rw [← Nat.min_eq_left hm, ← List.take_take] at hl
  exact List.mem_of_mem_take hl

theorem IdleFor.drop {n m : Nat} {s t : State} (h : IdleFor (n + m) s) (henv : t.env = s.env.drop n) : IdleFor m t := by
  intro l hl
  rw [henv, List.take_drop] at hl
  exact h l (List.mem_of_mem_drop hl)

theorem idleFor_of_replicate {n m : Nat} {r : List Slot} {s : State} (henv : s.env = List.replicate m idleSlot ++ r)
    (hn : n ≤ m) : IdleFor n s := by
  intro l hl
  rw [henv, List.take_append_of_le_length (by simpa using hn)] at hl
  exact List.eq_of_mem_replicate (List.mem_of_mem_take hl)

theorem IdleFor.boundary {n : Nat} {s : State} (h : IdleFor (n + 1) s) :
    Machine.boundary s = (spendEdge { s with env := s.env.tail }, .ok) := by
  cases e : s.env with
  | nil =>
    rw [boundary_nil e]
    have : ({ s with env := [] } : State) = s := by rw [← e]
    simp only [List.tail_nil, this]
  | cons l r =>
    obtain rfl : l = idleSlot := h l (by simp [e])
    rw [boundary_idle e]
    rfl

theorem IdleFor.worldOnly {n : Nat} {s : State} (h : IdleFor (n + 1) s) : WorldOnly s (Machine.boundary s).1 := by
  rw [h.boundary]
  have henv : WorldOnly s { s with env := s.env.tail } := { EnvKept.refl s with target := rfl, ioc := rfl }
  exact henv.trans { spendEdge_kept _ with target := rfl, ioc := rfl }

theorem OffBus.perform {s : State} (hc : s.cfg.pins.WellFormed) {p : Prim} (hp : Programmed p)
    (hreq : p ≠ .deassert .busreq) (hreset : p ≠ .assert .reset) (h : OffBus s) : OffBus (perform p s) := by
  have hk := perform_kept p s
  refine ⟨hk.ownsBus.trans h.bus, hk.m1.trans h.m1, ?_, ?_⟩
  · by_cases e : p = .assert .busreq
    · subst e
      unfold line
      rw [hk.cfg, perform_out_eq]
      simp only [latchesAfter, getPin_setPin_same, if_true]
      split <;> exact nofun
    · rw [line_perform_other hc hp (by decide) e hreq fun _ _ => by decide]
      exact h.busreq
  · by_cases e : p = .deassert .reset
    · subst e
      refine asserts_of_latch ?_
      unfold latchAt
      rw [hk.cfg, perform_out_eq]
      exact getPin_setPin_same _ _ _
    · rw [asserts, line_perform_other hc hp (by decide) hreset e fun _ _ => by decide]
      exact h.reset

/-- While the lines `ps` are carried out nothing reaches the target from outside: the boundaries are idle, or it is off the
bus and no line lets it back. -/
def Sheltered (ps : List Prim) (s : State) : Prop :=
  IdleFor ps.length s ∨ OffBus s ∧ ∀ p ∈ ps, p ≠ .deassert .busreq ∧ p ≠ .assert .reset

theorem Sheltered.worldOnly {p : Prim} {ps : List Prim} {s : State} (h : Sheltered (p :: ps) s) :
    WorldOnly s (boundary s).1 := by
  rcases h with hidle | ⟨hoff, _⟩
  · exact hidle.worldOnly
  · exact boundary_offBus hoff

theorem OffBus.afterPrim {s : State} (hc : s.cfg.pins.WellFormed) {p : Prim} (hp : Programmed p)
    (hreq : p ≠ .deassert .busreq) (hreset : p ≠ .assert .reset) (h : OffBus s) (k : Nat) :
    OffBus (afterPrim k p s) := by
  have hb := boundary_offBus h
  have h' := (hb.offBus h).perform (by rwa [hb.cfg]) hp hreq hreset
  exact ⟨h'.bus, h'.m1, h'.busreq, h'.reset⟩

theorem Sheltered.afterPrim {p : Prim} {ps : List Prim} {s : State} (hc : s.cfg.pins.WellFormed) (hp : Programmed p)
    (h : Sheltered (p :: ps) s) (k : Nat) : Sheltered ps (afterPrim k p s) := by
  rcases h with hidle | ⟨hoff, hps⟩
  · refine .inl (IdleFor.drop (n := 1) (by rwa [Nat.add_comm]) ?_)
    rw [afterPrim_env, List.drop_one]
  · obtain ⟨hreq, hreset⟩ := hps p (List.mem_cons_self ..)
    exact .inr ⟨hoff.afterPrim hc hp hreq hreset k, fun x hx => hps x (List.mem_cons_of_mem _ hx)⟩

theorem OffBus.afterPrims {s : State} (hc : s.cfg.pins.WellFormed) {ps : List Prim}
    (hps : ∀ p ∈ ps, Programmed p ∧ p ≠ .deassert .busreq ∧ p ≠ .assert .reset) (h : OffBus s) (k : Nat) :
    OffBus (afterPrims k ps s) := by
  induction ps generalizing k s with
  | nil => exact h
  | cons p ps ih =>
    obtain ⟨hp, hreq, hreset⟩ := hps p (List.mem_cons_self ..)
    exact ih (by rwa [afterPrim_cfg]) (fun x hx => hps x (List.mem_cons_of_mem _ hx)) (h.afterPrim hc hp hreq hreset k) _

/-! ### What the lines leave of the target -/

/-- Of the target's side and of the change interrupt only INT, CLK and a spent clock edge may differ. -/
structure Calm (s t : State) : Prop where
  target : t.target = { s.target with int := t.target.int, clk := t.target.clk, edge := t.target.edge }
  ioc : t.ioc = s.ioc

theorem Calm.refl (s : State) : Calm s s := ⟨rfl, rfl⟩

theorem Calm.trans {s t u : State} (h : Calm s t) (k : Calm t u) : Calm s u :=
  ⟨by rw [k.target, h.target], k.ioc.trans h.ioc⟩

theorem Calm.of_eq {s t : State} (htarget : t.target = s.target) (hioc : t.ioc = s.ioc) : Calm s t :=
  ⟨by rw [htarget], hioc⟩

theorem Calm.kept {s t : State} (h : Calm s t) : TargetKept s t ∧ StoresKept s t := by
  have e := h.target
  refine ⟨⟨?_, ?_, ?_, ?_⟩, ?_, ?_, ?_⟩ <;> rw [e]

/-- A primitive that neither reads nor configures leaves the change interrupt. -/
theorem perform_ioc_unread {p : Prim} (hread : reads p = false) (hconf : configures p = false) (s : State) :
    (perform p s).ioc = s.ioc := by
  cases p with
  | drive g | float g =>
    obtain ⟨_, _, hioc⟩ := applyWrites_group g _ s
    exact hioc
  | assert | deassert | latch | clkOut => exact applyWrite_ioc s _
  | iocConfig => cases hconf
  | samplePort | sample | iocFlag => cases hread

/-- The primitive reads nothing, configures nothing, and is not about RESET or the clock. -/
structure Plain (p : Prim) : Prop where
  programmed : Programmed p
  steady : steady p = true
  unread : reads p = false
  unconfigured : configures p = false

theorem afterPrim_calm {s : State} (hc : s.cfg.pins.WellFormed) {p : Prim} (hp : Plain p) {k : Nat}
    (hw : WorldOnly s (boundary s).1) (hshut : Shut (afterPrim k p s)) : Calm s (afterPrim k p s) := by
  have hcalm : Calm s (boundary s).1 := ⟨hw.target, hw.ioc⟩
  refine hcalm.trans (.of_eq ?_ (perform_ioc_unread hp.unread hp.unconfigured _))
  exact perform_unseen (by rwa [hw.cfg]) hp.programmed hp.steady ⟨hshut.memWrite, hshut.ioWrite, hshut.ioRead⟩

/-- No window is open after any of the lines. -/
def StaysShut : Nat → List Prim → State → Prop
  | _, [], _ => True
  | k, p :: ps, s => Shut (afterPrim k p s) ∧ StaysShut (k + 1) ps (afterPrim k p s)

theorem afterPrims_calm {ps : List Prim} (hps : ∀ p ∈ ps, Plain p) {s : State} (hc : s.cfg.pins.WellFormed) {k : Nat}
    (hsheltered : Sheltered ps s) (hshut : StaysShut k ps s) : Calm s (afterPrims k ps s) := by
  induction ps generalizing k s with
  | nil => exact .refl s
  | cons p ps ih =>
    obtain ⟨hfirst, hrest⟩ := hshut
    have hp := hps p (List.mem_cons_self ..)
    exact (afterPrim_calm hc hp hsheltered.worldOnly hfirst).trans
      (ih (fun x hx => hps x (List.mem_cons_of_mem _ hx)) (by rwa [afterPrim_cfg])
        (hsheltered.afterPrim hc hp.programmed k) hrest)

theorem StrobesQuiet.afterPrim {s : State} (hc : s.cfg.pins.WellFormed) {p : Prim} (hp : Programmed p)
    (hspares : spares p = true) (h : StrobesQuiet s) (k : Nat) : StrobesQuiet (afterPrim k p s) := by
  have hb := boundary_kept s
  have hquiet : StrobesQuiet (boundary s).1 := fun g hg => (hb.asserts g).trans (h g hg)
  exact hquiet.perform (by rwa [hb.cfg]) hp hspares

/-- With no strobe asserted, lines that spare the strobes open no window. -/
theorem StrobesQuiet.afterPrims {ps : List Prim} (hps : ∀ p ∈ ps, Programmed p ∧ spares p = true) {s : State}
    (hc : s.cfg.pins.WellFormed) (h : StrobesQuiet s) (k : Nat) :
    StaysShut k ps s ∧ StrobesQuiet (afterPrims k ps s) := by
  induction ps generalizing k s with
  | nil => exact ⟨trivial, h⟩
  | cons p ps ih =>
    obtain ⟨hp, hspares⟩ := hps p (List.mem_cons_self ..)
    have hfirst := h.afterPrim hc hp hspares k
    obtain ⟨hshut, hlast⟩ :=
      ih (fun x hx => hps x (List.mem_cons_of_mem _ hx)) (by rwa [afterPrim_cfg]) hfirst (k + 1)
    exact ⟨⟨hfirst.shut, hshut⟩, hlast⟩

end Sys2Proof.Machine
end

section
/-! The reset pulse (R90, R52), on its own and inside `RELEASE_BUS`. -/

namespace Sys2Proof.Machine

/-! ### The line of RESET -/

theorem line_perform_assert {s : State} (hc : s.cfg.pins.WellFormed) {g : Signal} (hg : g ∉ strobes)
    (hout : isOutput s (s.cfg.pins.pin g) = true) : line (perform (.assert g) s) g = .asserted := by
  have hout' := (rolesFixed_law.perform (p := .assert g) trivial s).output hc g hg
  unfold line
  rw [(perform_kept _ s).cfg, hout', hout, perform_out_eq]
  simp [latchesAfter]

theorem line_perform_deassert {s : State} (hc : s.cfg.pins.WellFormed) {g : Signal} (hg : g ∉ strobes)
    (hout : isOutput s (s.cfg.pins.pin g) = true) : line (perform (.deassert g) s) g = .deasserted := by
  have hout' := (rolesFixed_law.perform (p := .deassert g) trivial s).output hc g hg
  unfold line
  rw [(perform_kept _ s).cfg, hout', hout, perform_out_eq]
  simp [latchesAfter]

theorem asserts_iff {s : State} {g : Signal} : asserts s g = true ↔ line s g = .asserted := by simp [asserts]

theorem resetReact_sameLines (old new : State) : SameLines new (resetReact old new) := by
  unfold resetReact
  split
  · exact .of_registers rfl rfl rfl
  · split <;> exact .of_registers rfl rfl rfl

/-- A write of RESET that leaves every window shut reaches the target's processor alone. -/
theorem react_reset {old new : State} (hshut : Shut new) (hclken : line new .clken = line old .clken)
    (hclkout : clkoutHigh new = clkoutHigh old) : react old new = resetReact old new := by
  have hlines := resetReact_sameLines old new
  have hdevices : ioReadReact old (ioWriteReact old (memWriteReact old new)) = new := by
    simp [memWriteReact, ioWriteReact, ioReadReact, acting_closed hshut.memWrite, acting_closed hshut.ioWrite,
      acting_closed hshut.ioRead]
  unfold react
  rw [hdevices]
  unfold clockReact
  rw [hlines.line, hlines.clkout, hclken, hclkout]
  simp

/-- The write of RESET's latch, where no strobe is asserted. -/
theorem perform_reset {s : State} (hc : s.cfg.pins.WellFormed) (hquiet : StrobesQuiet s) {p : Prim} {l : Bool}
    (hp : p = .assert .reset ∨ p = .deassert .reset)
    (hw : accessEffect p s = applyWrite s (.outPin (s.cfg.pins.pin .reset) l)) :
    (perform p s).target = (resetReact s (storeWrite (.outPin (s.cfg.pins.pin .reset) l) s)).target ∧
      SameLines (perform p s) (storeWrite (.outPin (s.cfg.pins.pin .reset) l) s) ∧
      line (perform p s) .clken = line s .clken := by
  obtain ⟨hprog, hspares⟩ : Programmed p ∧ spares p = true := by rcases hp with rfl | rfl <;> exact ⟨trivial, rfl⟩
  have hother {g : Signal} (hg : g ≠ .reset) : p ≠ .assert g ∧ p ≠ .deassert g ∧ ∀ l, p = .clkOut l → g ≠ .clkout := by
    rcases hp with rfl | rfl <;> simp [hg.symm]
  have hlines : SameLines (storeWrite (.outPin (s.cfg.pins.pin .reset) l) s) (perform p s) := by
    refine .of_registers (perform_kept p s).cfg ?_ ?_
    · rw [perform_dir, hw, applyWrite_dir]
    · rw [perform_out, hw, applyWrite_out]
  have hback : SameLines (perform p s) (storeWrite (.outPin (s.cfg.pins.pin .reset) l) s) :=
    ⟨fun g => (hlines.line g).symm, hlines.clkout.symm⟩
  have hclken : line (perform p s) .clken = line s .clken := by
    obtain ⟨hset, hclear, hclk⟩ := hother (g := .clken) (by decide)
    exact line_perform_other hc hprog (by decide) hset hclear hclk
  have hclkout : clkoutHigh (perform p s) = clkoutHigh s := by
    obtain ⟨hset, hclear, hclk⟩ := hother (g := .clkout) (by decide)
    unfold clkoutHigh
    rw [(perform_kept p s).cfg, perform_out_eq]
    exact getPin_latchesAfter hc hprog hset hclear hclk s.out
  have hreact := react_reset (hlines.shut (hquiet.perform hc hprog hspares).shut)
    ((hback.line _).trans hclken) (hback.clkout.trans hclkout)
  refine ⟨?_, hback, hclken⟩
  rw [show (perform p s).target = (accessEffect p s).target from rfl, hw, applyWrite, hreact]

/-- A pulse can be seen for what it is: no strobe is asserted, RESET is driven, and the clock runs. -/
structure Pulsable (s : State) : Prop where
  pins : s.cfg.pins.WellFormed
  quiet : StrobesQuiet s
  output : isOutput s (s.cfg.pins.pin .reset) = true
  clken : asserts s .clken = true

theorem Pulsable.env {s t : State} (h : Pulsable s) (hk : EnvKept s t) : Pulsable t where
  pins := by rw [hk.cfg]; exact h.pins
  quiet g hg := (hk.asserts g).trans (h.quiet g hg)
  output := by rw [hk.cfg, isOutput_congr hk.cfg hk.dir]; exact h.output
  clken := (hk.asserts _).trans h.clken

theorem Pulsable.assert {s : State} (h : Pulsable s) : Pulsable (perform (.assert .reset) s) where
  pins := by rw [(perform_kept _ s).cfg]; exact h.pins
  quiet := h.quiet.perform h.pins trivial rfl
  output := by
    rw [(perform_kept _ s).cfg,
      (rolesFixed_law.perform (p := .assert .reset) trivial s).output h.pins .reset (by decide)]
    exact h.output
  clken := by
    rw [asserts, line_perform_other (p := .assert .reset) h.pins trivial (by decide) (by simp) (by simp) (by simp)]
    exact h.clken

/-- A pulse begins (R52). -/
theorem Pulsable.begins {s : State} (h : Pulsable s) (hoff : asserts s .reset = false) :
    (perform (.assert .reset) s).target = { s.target with resetSince := some s.now } := by
  obtain ⟨htarget, hlines, _⟩ := perform_reset h.pins h.quiet (p := .assert .reset) (.inl rfl) rfl
  have hon := line_perform_assert h.pins (by decide) h.output
  rw [← hlines.line, ← asserts_iff] at hon
  rw [htarget, resetReact, hon, hoff]
  rfl

/-- A pulse of at least `T_RESET_MIN` ends with the clock running (R52). -/
theorem Pulsable.ends {s : State} (h : Pulsable s) (hon : asserts s .reset = true) {began : Quantity}
    (hbegan : s.target.resetSince = some began) (hlong : s.cfg.tResetMin ≤ s.now - began) :
    (perform (.deassert .reset) s).target = { s.target with resetSince := none, cpu := .sinceReset 0 } := by
  obtain ⟨htarget, hlines, hline⟩ := perform_reset h.pins h.quiet (p := .deassert .reset) (.inr rfl) rfl
  have hoff := line_perform_deassert h.pins (by decide) h.output
  have hoff' : asserts (perform (.deassert .reset) s) .reset = false := by rw [asserts, hoff]; rfl
  have hclken : asserts (perform (.deassert .reset) s) .clken = true := by rw [asserts, hline]; exact h.clken
  rw [← hlines.asserts] at hoff' hclken
  rw [htarget, resetReact, hoff', hon, hclken]
  simp [storeWrite, hbegan, hlong]

/-! ### The three lines -/

/-- The state after the three lines of a pulse, from line `k` on. -/
def afterPulse (k : Nat) (d : Quantity) (s : State) : State :=
  afterPrim (k + 2) (.deassert .reset) (afterSleep (k + 1) d (afterPrim k (.assert .reset) s))

section
variable (k : Nat) (d : Quantity) (s : State)

theorem afterPulse_records : RecordsStand s (afterPulse k d s) :=
  ((afterPrim_records _ _ _).trans (afterSleep_records _ _ _)).trans (afterPrim_records _ _ _)

theorem afterPulse_env : (afterPulse k d s).env = s.env.drop 4 := by
  unfold afterPulse
  rw [afterPrim_env, afterSleep_env, afterPrim_env, ← List.drop_one, ← List.drop_one, List.drop_drop, List.drop_drop]

theorem afterPulse_dir : (afterPulse k d s).dir = s.dir := by
  unfold afterPulse
  rw [afterPrim_dir, directionsAfter, afterSleep_dir, afterPrim_dir]
  rfl

theorem afterPulse_out : (afterPulse k d s).out = withSignal s.cfg s.out .reset false := by
  have hcfg : (afterSleep (k + 1) d (afterPrim k (.assert .reset) s)).cfg = s.cfg :=
    (afterSleep_records _ _ _).flags.1.trans (afterPrim_cfg _ _ _)
  unfold afterPulse
  rw [afterPrim_out, hcfg, afterSleep_out, afterPrim_out]
  exact setPin_setPin_same _ _ _ _

theorem afterPulse_trace : (afterPulse k d s).trace = s.trace ++ [.assert .reset, .sleep d false, .deassert .reset] := by
  unfold afterPulse
  rw [afterPrim_trace _ rfl, afterSleep_trace, afterPrim_trace _ rfl]
  simp [eventOf]

theorem afterPulse_iocSetup : IocSetupKept s (afterPulse k d s) := by
  obtain ⟨hen, hdflt, hcmp⟩ := afterPrim_iocSetup k (p := .assert .reset) rfl s
  obtain ⟨hen', hdflt', hcmp'⟩ := afterSleep_iocSetup (k + 1) d (afterPrim k (.assert .reset) s)
  obtain ⟨hen'', hdflt'', hcmp''⟩ :=
    afterPrim_iocSetup (k + 2) (p := .deassert .reset) rfl (afterSleep (k + 1) d (afterPrim k (.assert .reset) s))
  exact ⟨hen''.trans (hen'.trans hen), hdflt''.trans (hdflt'.trans hdflt), hcmp''.trans (hcmp'.trans hcmp)⟩

end

section
variable {prog : List ProgLine} {i : Instr} {c : Params} {k : Nat} {s : State}

theorem afterPulse_seq (hq : s.seq = .running i k) (d : Quantity) :
    (afterPulse k d s).seq = .running i (k + 3) :=
  afterPrim_seq (afterSleep_seq (afterPrim_seq hq _) d) _

/-- The pulse runs through with a sound script (R90). -/
theorem reaches_pulse (hscope : scopeHandler i = none)
    (hlines : ∀ j l, (resetLines c)[j]? = some l → prog[k + j]? = some l) (hq : s.seq = .running i k)
    (hsound : Sound s) : Reaches prog 3 s (afterPulse k c.tResetMin s) := by
  have hq1 := afterPrim_seq hq (.assert .reset)
  have hsound1 : Sound (afterPrim k (.assert .reset) s) := afterPrims_sound hsound k [.assert .reset]
  have hq2 := afterSleep_seq hq1 c.tResetMin
  have hsound2 : Sound (afterSleep (k + 1) c.tResetMin (afterPrim k (.assert .reset) s)) :=
    sound_of_drop hsound1 (afterSleep_records _ _ _).flags.1 (afterSleep_env _ _ _)
  have h1 : Reaches prog 1 s (afterPrim k (.assert .reset) s) :=
    reaches_prims (ps := [.assert .reset]) hscope hq (.cons (hlines 0 _ rfl) .nil) hsound
  have h2 := reaches_sleep hscope hq1 (hlines 1 _ rfl) hsound1
  exact (h1.trans h2).trans
    (reaches_prims (ps := [.deassert .reset]) hscope hq2 (.cons (hlines 2 _ rfl) .nil) hsound2)

theorem IdleFor.afterSleep {n : Nat} (h : IdleFor (n + 2) s) (d : Quantity) :
    (Machine.afterSleep k d s).target = { s.target with edge := false } ∧ (Machine.afterSleep k d s).ioc = s.ioc ∧
      (Machine.afterSleep k d s).now = s.now + d := by
  have hsecond : IdleFor (n + 1) (Machine.boundary s).1 :=
    IdleFor.drop (n := 1) (m := n + 1) (h.mono (by omega)) (by rw [boundary_env, List.drop_one])
  unfold Machine.afterSleep
  rw [hsecond.boundary, IdleFor.boundary (n := n + 1) h]
  exact ⟨rfl, rfl, rfl⟩

theorem asserts_afterSleep (k : Nat) (d : Quantity) (s : State) (g : Signal) :
    asserts (Machine.afterSleep k d s) g = asserts s g :=
  ((boundary_kept _).asserts g).trans ((boundary_kept s).asserts g)

/-- THE PULSE AT THE TARGET: with idle boundaries its processor comes to its reset state, and nothing else of it changes
(R52, R90). -/
theorem Pulsable.afterPulse (h : Pulsable s) (hidle : IdleFor 4 s) (hoff : asserts s .reset = false) (k : Nat) :
    (afterPulse k s.cfg.tResetMin s).target =
        { s.target with resetSince := none, cpu := .sinceReset 0, edge := false } ∧
      (Machine.afterPulse k s.cfg.tResetMin s).ioc = s.ioc := by
  obtain ⟨s1, hs1⟩ : ∃ s1, s1 = afterPrim k (.assert .reset) s := ⟨_, rfl⟩
  obtain ⟨s2, hs2⟩ : ∃ s2, s2 = afterSleep (k + 1) s.cfg.tResetMin s1 := ⟨_, rfl⟩
  have hb := h.env (boundary_kept s)
  have hidle1 : IdleFor 3 s1 :=
    IdleFor.drop (n := 1) hidle (by rw [hs1, afterPrim_env, List.drop_one])
  have hidle2 : IdleFor 1 s2 := IdleFor.drop (n := 2) hidle1 (by rw [hs2, afterSleep_env])
  have hon : asserts s1 .reset = true := by
    rw [hs1, asserts_iff]
    exact line_perform_assert hb.pins (by decide) hb.output
  have htarget1 : s1.target = { s.target with resetSince := some s.now, edge := false } := by
    have hbegins := hb.begins (((boundary_kept s).asserts _).trans hoff)
    rw [hs1]
    refine hbegins.trans ?_
    rw [IdleFor.boundary (n := 3) hidle]
    rfl
  have hnow1 : s1.now = s.now := by
    rw [hs1]
    refine (perform_kept (.assert .reset) _).now.trans ?_
    rw [IdleFor.boundary (n := 3) hidle]
    rfl
  have hioc1 : s1.ioc = s.ioc := by
    rw [hs1]
    refine (perform_ioc_unread (p := .assert .reset) rfl rfl _).trans ?_
    rw [IdleFor.boundary (n := 3) hidle]
    rfl
  obtain ⟨htarget2, hioc2, hnow2⟩ := IdleFor.afterSleep (k := k + 1) (n := 1) hidle1 s.cfg.tResetMin
  rw [← hs2] at htarget2 hioc2 hnow2
  have hpulse2 : Pulsable s2 := by
    rw [hs2]
    have hs1' : Pulsable s1 := by
      rw [hs1]
      exact ⟨hb.assert.pins, hb.assert.quiet, hb.assert.output, hb.assert.clken⟩
    have hslept := (hs1'.env (boundary_kept s1)).env (boundary_kept _)
    exact ⟨hslept.pins, hslept.quiet, hslept.output, hslept.clken⟩
  have hcfg2 : s2.cfg = s.cfg := by
    rw [hs2, (afterSleep_records _ _ _).flags.1, hs1, afterPrim_cfg]
  have hb2 : (boundary s2).1 = spendEdge { s2 with env := s2.env.tail } := by rw [IdleFor.boundary (n := 0) hidle2]
  have hends := (hpulse2.env (boundary_kept s2)).ends (began := s.now)
    (((boundary_kept s2).asserts _).trans (by rw [hs2, asserts_afterSleep]; exact hon))
    (by rw [hb2]; show s2.target.resetSince = _; rw [htarget2, htarget1])
    (by rw [hb2]; show s2.cfg.tResetMin ≤ s2.now - s.now; rw [hcfg2, hnow2, hnow1]; simp)
  have hlast : Machine.afterPulse k s.cfg.tResetMin s = afterPrim (k + 2) (.deassert .reset) s2 := by
    rw [hs2, hs1]
    rfl
  rw [hlast]
  refine ⟨hends.trans ?_, (perform_ioc_unread (p := .deassert .reset) rfl rfl _).trans ?_⟩ <;> rw [hb2]
  · show { s2.target with edge := false, resetSince := none, cpu := .sinceReset 0 } = _
    rw [htarget2, htarget1]
  · exact hioc2.trans hioc1

end

/-! ### `RESET` -/

/-- The state after `RESET` with a sound script. -/
def afterReset (s : State) : State := opReturn (afterPulse 0 s.cfg.tResetMin (beginOp .reset s))

theorem execReset_sound {s : State} (hidle : s.seq = .idle) (hsound : Sound s) :
    exec .reset s = .next (afterReset s) := by
  obtain ⟨t, ht⟩ := (exec_of_idle (i := .reset) trivial hidle).1.mpr rfl
  obtain ⟨_, _, e⟩ := exec_next ht
  rw [ht, e]
  have hpulse : Reaches (programOf s.cfg .reset) 3 (beginOp .reset s) _ :=
    reaches_pulse (i := .reset) (c := s.cfg) rfl (fun j l hl => by rwa [Nat.zero_add]) rfl hsound
  have hreturn : Reaches (programOf s.cfg .reset) 1 _ (afterReset s) :=
    .ended (afterPulse_seq (i := .reset) (k := 0) (s := beginOp .reset s) rfl _)
      (tick_end (afterPulse_seq (i := .reset) (s := beginOp .reset s) rfl _) rfl) rfl
  exact congrArg _ ((hpulse.trans hreturn).runOp_eq (by simp [programOf, resetProgram, resetLines]) rfl)

/-- What a good state with nothing in progress says of the lines that a pulse depends on. -/
theorem Good.pulsable {s : State} (h : Good s) (hidle : s.seq = .idle) :
    Pulsable s ∧ asserts s .reset = false := by
  obtain ⟨_, hreset⟩ := h.target
  obtain ⟨_, hclken⟩ := h.clock.1 (by rw [hidle]; rfl)
  refine ⟨⟨h.params.1, h.strobesQuiet hidle, h.roles.1 .reset (by decide), asserts_iff.mpr hclken⟩, ?_⟩
  rw [asserts, hreset, hidle]
  rfl

/-- Settles O20: the three lines are carried out, and what they leave is read off them. -/
theorem resetCompletes : Obligations.ResetCompletes := by
  intro s hwf hidle hsound
  have hexec := execReset_sound hidle hsound
  obtain ⟨hflags, hraised, hresult⟩ := afterPulse_records 0 s.cfg.tResetMin (beginOp .reset s)
  have hdir : (afterReset s).dir = s.dir := afterPulse_dir 0 s.cfg.tResetMin (beginOp .reset s)
  have hout : (afterReset s).out = _ := afterPulse_out 0 s.cfg.tResetMin (beginOp .reset s)
  have htrace : (afterReset s).trace = _ := afterPulse_trace 0 s.cfg.tResetMin (beginOp .reset s)
  have hioc : IocSetupKept s (afterReset s) := afterPulse_iocSetup 0 s.cfg.tResetMin (beginOp .reset s)
  refine ⟨afterReset s, hexec, ⟨rfl, hraised, rfl⟩, hflags, hresult, hdir, hioc, hout, htrace, fun hgood => ?_,
    fun hgood hquiet => ?_⟩
  · obtain ⟨_, _, _, _, hfault, hkilled, _⟩ := hflags
    obtain ⟨_, hreset⟩ :=
      (hgood.exec hexec (hfault.trans hgood.noFault) (hkilled.trans hgood.alive)).1.target
    exact hreset
  · obtain ⟨hpulse, hoff⟩ := hgood.pulsable hidle
    have hbegin : Pulsable (beginOp .reset s) := ⟨hpulse.pins, hpulse.quiet, hpulse.output, hpulse.clken⟩
    obtain ⟨htarget, hioc⟩ := hbegin.afterPulse (Quiet.idleFor (s := beginOp .reset s) hquiet 4) hoff 0
    have htarget' : (afterReset s).target = { s.target with resetSince := none, cpu := .sinceReset 0, edge := false } :=
      htarget
    rw [StoresKept, htarget']
    exact ⟨⟨rfl, rfl, rfl⟩, hioc, rfl, rfl, rfl⟩

end Sys2Proof.Machine
end

section
/-! The invariants of R30 along undisturbed lines, and the polls of BUSACK (R98): the samples that fail, and the target's
answer. -/

namespace Sys2Proof.Machine

/-! ### The invariant -/

section
variable {i : Instr} {k : Nat} {s : State}

theorem Good.afterPrim {p : Prim} {pos : Pos} (hs : Good s) (hq : s.seq = .running i k)
    (hl : (programOf s.cfg i)[k]? = some ⟨pos, .prim p, none⟩) : KeepsGood s (afterPrim k p s) := by
  obtain ⟨hb, hqb, hlb⟩ := hs.atBoundary hq hl
  exact hb.trans (hb.1.advance_perform hqb hlb rfl
    fun htake => absurd htake (not_waiting (jumpChecked_of_program hl) (by simp)))

theorem Good.afterPrims {ps : List Prim} (hs : Good s) (hq : s.seq = .running i k)
    (hprog : PrimsAt (programOf s.cfg i) k ps) : KeepsGood s (afterPrims k ps s) := by
  induction ps generalizing k s with
  | nil => exact hs.keepsGood_refl
  | cons p ps ih =>
    obtain ⟨pos, hl⟩ := hprog.head
    have hfirst := hs.afterPrim hq hl
    exact hfirst.trans (ih hfirst.1 (afterPrim_seq hq p) (by rw [afterPrim_cfg]; exact hprog.tail))

theorem Good.afterOwn {o : BusOwnership} {pos : Pos} (hs : Good s) (hq : s.seq = .running i k)
    (hl : (programOf s.cfg i)[k]? = some ⟨pos, .own o, none⟩) : KeepsGood s (afterOwn k o s) :=
  hs.assigned hq hl rfl rfl (accessed_of_sameHardware ⟨rfl, rfl, rfl, rfl, rfl⟩ rfl) (afterOwn_seq hq o) rfl rfl rfl
    rfl rfl

theorem Good.afterSleep {d : Quantity} {pos : Pos} (hs : Good s) (hq : s.seq = .running i k)
    (hl : (programOf s.cfg i)[k]? = some ⟨pos, .sleep d, none⟩) : KeepsGood s (afterSleep k d s) := by
  obtain ⟨hb, hqb, hlb⟩ := hs.atBoundary hq hl
  obtain ⟨hb', hqb', hlb'⟩ := hb.1.atBoundary hqb hlb
  exact (hb.trans hb').trans (hb'.1.slept hqb' hlb' rfl d _)

theorem Good.afterPulse (hs : Good s) (hq : s.seq = .running i k)
    (hlines : ∀ j l, (resetLines s.cfg)[j]? = some l → (programOf s.cfg i)[k + j]? = some l) :
    KeepsGood s (afterPulse k s.cfg.tResetMin s) := by
  have h1 := hs.afterPrim hq (hlines 0 _ rfl)
  have hq1 := afterPrim_seq hq (.assert .reset)
  have hcfg1 := afterPrim_cfg k (.assert .reset) s
  have h2 := h1.1.afterSleep hq1 (by rw [hcfg1]; exact hlines 1 _ rfl)
  have hcfg2 := (afterSleep_records (k + 1) s.cfg.tResetMin (Machine.afterPrim k (.assert .reset) s)).flags.1
  have h3 := h2.1.afterPrim (afterSleep_seq hq1 _) (by rw [hcfg2, hcfg1]; exact hlines 2 _ rfl)
  exact (h1.trans h2).trans h3

/-- The invariant along a poll's sample that is the last (R98). -/
theorem Good.afterPoll {g : Signal} {want : Bool} {w : Wait} {c : Option Nat} {pos : Pos} (hs : Good s)
    (hq : s.seq = .running i k) (hl : (programOf s.cfg i)[k]? = some ⟨pos, .poll g want w c, none⟩)
    (hgrant : takeAt (.running i k) = some 1 → (Machine.boundary s).1.target.ownsBus = false) :
    KeepsGood s (Machine.afterPrim k (.sample g) s) := by
  obtain ⟨hb, hqb, hlb⟩ := hs.atBoundary hq hl
  exact hb.trans (hb.1.advance_perform hqb hlb rfl hgrant)

theorem Good.failedSample {g : Signal} (hs : Good s) : KeepsGood s (failedSample (.sample g) s) := by
  have hb := hs.boundary
  have hsample := hb.1.sample (g := g)
  exact (hb.trans hsample).trans (hsample.1.polls _)

/-- The target makes progress unless it is caught, in reset, or its clock is stopped (R46). -/
theorem Good.canRun (hs : Good s) (hpulse : pulseAt s.seq = false) (hslow : slowAt s.seq = none)
    (hfree : halted s = false) : canRun s = true := by
  obtain ⟨_, hreset⟩ := hs.target
  obtain ⟨_, hclken⟩ := hs.clock.1 hslow
  rw [hpulse] at hreset
  simp [Machine.canRun, hfree, asserts, hreset, hclken]

end

/-! ### An operation that runs to its end -/

theorem exec_of_reaches {i : Instr} {s t : State} {n : Nat} (hwf : i.WellFormed) (hidle : s.seq = .idle)
    (hallowed : allowed s i = true) (h : Reaches (programOf s.cfg i) n (beginOp i s) t)
    (hn : n ≤ (programOf s.cfg i).length + 1 + s.env.length) (ht : t.seq = .idle) : exec i s = .next t := by
  rw [exec_eq_issue, issue_next hwf hidle hallowed, h.runOp_eq (s := beginOp i s) hn ht]

/-! ### Samples of BUSACK -/

/-- The sample of BUSACK reads the port of M1 (R13), and so clears the M1 latch (R24). -/
theorem flagLatched_sampleBusack {s : State} (hc : s.cfg.pins.WellFormed) :
    flagLatched (perform (.sample .busack) s) .m1 = false := by
  obtain ⟨_, _, hbusack, hm1⟩ := hc
  exact flagLatched_touchPort (hbusack.trans hm1.symm)

/-- `t` is `s` after `n` more failed samples of BUSACK, with idle boundaries before them. -/
structure Sampled (n : Nat) (s t : State) : Prop where
  records : RecordsStand s t
  seq : t.seq = s.seq
  polls : t.polls = s.polls + n
  env : t.env = s.env.drop n
  dir : t.dir = s.dir
  out : t.out = s.out
  trace : t.trace = s.trace ++ List.replicate n (.sampleSig .busack s.target.ownsBus)
  target : t.target = { s.target with int := t.target.int, clk := t.target.clk, edge := t.target.edge }
  setup : IocSetupKept s t
  none : n = 0 → t.ioc = s.ioc
  latch : 0 < n → flagLatched t .m1 = false
  good : KeepsGood s t

theorem Sampled.one {s : State} (hs : Good s) (hidle : IdleFor 1 s) :
    Sampled 1 s (failedSample (.sample .busack) s) := by
  have hb := boundary_kept s
  have hw := IdleFor.worldOnly (n := 0) hidle
  have hbus : (boundary s).1.target.ownsBus = s.target.ownsBus := by rw [hw.target]
  obtain ⟨hen, hdflt, hcmp⟩ := perform_ioc_other (p := .sample .busack) (by simp) (boundary s).1
  exact {
    records := failedSample_records _ s
    seq := failedSample_seq _ s
    polls := rfl
    env := by rw [failedSample_env, List.drop_one]
    dir := hb.dir
    out := hb.out
    trace := by
      show (perform (.sample .busack) (boundary s).1).trace = _
      rw [perform_trace, hb.trace, eventOf, hs.boundary.1.sensed_busack, hbus]
      rfl
    target := hw.target
    setup := ⟨hen.trans hb.en, hdflt.trans hb.dflt, hcmp.trans hb.cmp⟩
    none := nofun
    latch := fun _ => flagLatched_sampleBusack (s := (boundary s).1) (by rw [hb.cfg]; exact hs.params.1)
    good := hs.failedSample }

theorem Sampled.refl {s : State} (hs : Good s) : Sampled 0 s s := by
  refine ⟨.refl s, rfl, rfl, rfl, rfl, rfl, ?_, rfl, ⟨rfl, rfl, rfl⟩, fun _ => rfl, nofun, hs.keepsGood_refl⟩
  rw [List.replicate_zero, List.append_nil]

theorem Sampled.trans {n m : Nat} {s t u : State} (h : Sampled n s t) (k : Sampled m t u) : Sampled (n + m) s u := by
  obtain ⟨hen, hdflt, hcmp⟩ := h.setup
  obtain ⟨hen', hdflt', hcmp'⟩ := k.setup
  have hbus : t.target.ownsBus = s.target.ownsBus := by rw [h.target]
  exact {
    records := h.records.trans k.records
    seq := k.seq.trans h.seq
    polls := by rw [k.polls, h.polls, Nat.add_assoc]
    env := by rw [k.env, h.env, List.drop_drop]
    dir := k.dir.trans h.dir
    out := k.out.trans h.out
    trace := by rw [k.trace, h.trace, hbus, List.append_assoc, ← List.replicate_add]
    target := by rw [k.target, h.target]
    setup := ⟨hen'.trans hen, hdflt'.trans hdflt, hcmp'.trans hcmp⟩
    none := fun hnone => (k.none (by omega)).trans (h.none (by omega))
    latch := fun hpos => by
      rcases Nat.eq_zero_or_pos m with rfl | hm
      · unfold flagLatched
        rw [k.none rfl, k.records.flags.1]
        exact h.latch hpos
      · exact k.latch hm
    good := h.good.trans k.good }

/-- Before a target that does not answer the sample fails (R98). -/
theorem Good.unanswered {s : State} {want : Bool} (hs : Good s) (hidle : IdleFor 1 s)
    (hbus : s.target.ownsBus = !want) : senses .busack want (Machine.boundary s).1 = false := by
  have hsame : (Machine.boundary s).1.target.ownsBus = s.target.ownsBus := by
    rw [IdleFor.boundary (n := 0) hidle]
    rfl
  rw [senses, hs.boundary.1.sensed_busack, hsame, hbus]
  cases want <;> rfl

/-- WHILE THE TARGET DOES NOT ANSWER a poll of BUSACK takes one failed sample after another (R98). -/
theorem reaches_failed {prog : List ProgLine} {i : Instr} {k : Nat} {want : Bool} {w : Wait} {c : Option Nat} {pos : Pos}
    (hscope : scopeHandler i = none) (hl : prog[k]? = some ⟨pos, .poll .busack want w c, none⟩) {n : Nat} {s : State}
    (hs : Good s) (hq : s.seq = .running i k) (hidle : IdleFor n s) (hbus : s.target.ownsBus = !want)
    (hlimit : ∀ m ∈ s.cfg.pollLimit, s.polls + n < m) (hleft : n < s.env.length) :
    ∃ t, Reaches prog n s t ∧ Sampled n s t := by
  induction n generalizing s with
  | zero => exact ⟨s, .refl, .refl hs⟩
  | succ n ih =>
    have hidle1 : IdleFor 1 s := hidle.mono (by omega)
    have hone := Sampled.one hs hidle1
    have hboundary := IdleFor.boundary (n := 0) hidle1
    have htick : tick prog s = failedSample (.sample .busack) s :=
      tick_poll_failed (pollLine_poll pos .busack want w c) hq hl (untaken_of_scopeless hscope hq)
        (by rw [hboundary]) (hs.unanswered hidle1 hbus) fun m hm => by have := hlimit m hm; omega
    obtain ⟨t, hreach, ht⟩ := ih hone.good.1 (hone.seq.trans hq)
      (IdleFor.drop (n := 1) (by rwa [Nat.add_comm]) hone.env) (by rw [hone.target]; exact hbus)
      (fun m hm => by
        rw [hone.records.flags.1] at hm
        have := hlimit m hm
        rw [hone.polls]
        omega)
      (by rw [hone.env, List.length_drop]; omega)
    have hstep : Reaches prog 1 s (failedSample (.sample .busack) s) := by
      refine .of_tick hq htick (parked_script ?_)
      rw [← List.length_pos_iff_ne_nil, hone.env, List.length_drop]
      omega
    rw [Nat.add_comm]
    exact ⟨t, hstep.trans hreach, hone.trans ht⟩

/-! ### The target's answer -/

theorem halted_congr {s t : State} (hcfg : t.cfg = s.cfg) (harm : t.arm = s.arm) (hioc : t.ioc = s.ioc) :
    halted t = halted s := by
  unfold halted flagLatched
  rw [hcfg, harm, hioc]

theorem halted_of_latch {s : State} (h : flagLatched s .m1 = false) : halted s = false := by simp [halted, h]

/-- A target that is not caught is not caught by samples, and one that is caught is let go by the first (R227). -/
theorem Sampled.free {n : Nat} {s t : State} (h : Sampled n s t) (hfree : halted s = true → 0 < n) :
    halted t = false := by
  rcases Nat.eq_zero_or_pos n with rfl | hn
  · obtain ⟨hcfg, _, _, harm, _⟩ := h.records.flags
    rw [halted_congr hcfg harm (h.none rfl), Bool.eq_false_iff]
    exact fun e => absurd (hfree e) (Nat.lt_irrefl 0)
  · exact halted_of_latch (h.latch hn)

/-- The target takes its bus back (R45 b). -/
theorem boundary_resume {s : State} {rest : List Slot} (henv : s.env = slotOf .resume :: rest)
    (hbus : s.target.ownsBus = false) (hreq : line s .busreq = .deasserted) (hrun : canRun s = true) :
    boundary s = ({ s with env := rest, target := { s.target with ownsBus := true, edge := false } }, .ok) := by
  have hact : applyAct { s with env := rest } .resume =
      { s with env := rest, target := { s.target with ownsBus := true } } := by
    refine if_pos ?_
    show (!s.target.ownsBus && line s .busreq == .deasserted && canRun s) = true
    rw [hbus, hreq, hrun]
    rfl
  rw [boundary_cons henv]
  refine Prod.ext ?_ rfl
  show spendEdge (applyActs { s with env := rest } [.resume]) = _
  rw [show applyActs { s with env := rest } [.resume] = applyAct { s with env := rest } .resume from rfl, hact]
  rfl

/-- The target floats its bus, between fetches or when its fetch completes (R45 a, R59). -/
theorem boundary_grant {s : State} {acts : List EnvAct} {rest : List Slot} (henv : s.env = ⟨acts, .ok⟩ :: rest)
    (hacts : s.target.m1 = false ∧ acts = [.grant] ∨ acts = [.m1Deassert, .grant]) (hbus : s.target.ownsBus = true)
    (hreq : line s .busreq = .asserted) (hfree : halted s = false) (hrun : canRun s = true) :
    boundary s =
      ({ s with env := rest, target := { s.target with ownsBus := false, m1 := false, edge := false } }, .ok) := by
  have hgrant : applyAct { s with env := rest, target := { s.target with m1 := false } } .grant =
      { s with env := rest, target := { s.target with m1 := false, ownsBus := false } } := by
    refine if_pos ?_
    show (s.target.ownsBus && !false && line s .busreq == .asserted && canRun s) = true
    rw [hbus, hreq, hrun]
    rfl
  have hdone : applyActs { s with env := rest } acts =
      { s with env := rest, target := { s.target with m1 := false, ownsBus := false } } := by
    rcases hacts with ⟨hm1, rfl⟩ | rfl
    · have hself : ({ s.target with m1 := false } : Target) = s.target := by rw [← hm1]
      rw [hself] at hgrant
      exact hgrant.trans (by rw [← hm1])
    · have hm1 : applyAct { s with env := rest } .m1Deassert =
          { s with env := rest, target := { s.target with m1 := false } } := by
        refine if_pos ?_
        show (!halted s && (canRun s || asserts s .reset)) = true
        rw [hfree, hrun]
        rfl
      show applyAct (applyAct { s with env := rest } .m1Deassert) .grant = _
      rw [hm1, hgrant]
  rw [boundary_cons henv]
  refine Prod.ext ?_ rfl
  show spendEdge (applyActs { s with env := rest } acts) = _
  rw [hdone]
  rfl

end Sys2Proof.Machine
end

section
/-! `RELEASE_BUS` (R95 to R97, R100, R102): its lines up to the poll of BUSACK, and the three ways in which the poll ends:
the target resumes, it has its bus already, or it does not answer. -/

namespace Sys2Proof.Machine

/-! ### The lines before the poll -/

/-- The primitives of step 2 of `RELEASE_BUS` (R95). -/
def floats : List Prim := [.float .data, .float .addr, .float .strobes]

theorem floats_plain : ∀ p ∈ floats, Plain p := by
  intro p hp
  simp only [floats, List.mem_cons, List.not_mem_nil, or_false] at hp
  rcases hp with rfl | rfl | rfl <;> exact ⟨trivial, rfl, rfl, rfl⟩

theorem floats_spare : ∀ p ∈ floats, Programmed p ∧ spares p = true := by
  intro p hp
  refine ⟨(floats_plain p hp).programmed, ?_⟩
  revert p
  decide

/-- The line of `RELEASE_BUS` that de-asserts BUSREQ; the poll is the next one. -/
def withdrawLine (reset : Bool) : Nat := if reset then 7 else 4

theorem releaseBus_lines (c : Params) (reset : Bool) :
    (programOf c (.releaseBus reset))[0]? = some (ln .releaseBus 1 0 (.own .released)) ∧
      PrimsAt (programOf c (.releaseBus reset)) 1 floats ∧
      (programOf c (.releaseBus reset))[withdrawLine reset]? =
        some (ln .releaseBus 4 0 (.prim (.deassert .busreq))) ∧
      (programOf c (.releaseBus reset))[withdrawLine reset + 1]? =
        some (ln .releaseBus 5 0 (.poll .busack true .returnWait none)) ∧
      (programOf c (.releaseBus reset)).length = withdrawLine reset + 2 := by
  cases reset <;> exact ⟨rfl, .cons rfl (.cons rfl (.cons rfl .nil)), rfl, rfl, rfl⟩

theorem releaseBus_pulse (c : Params) (j : Nat) (l : ProgLine) (hl : (resetLines c)[j]? = some l) :
    (programOf c (.releaseBus true))[4 + j]? = some l := by
  rcases j with _ | _ | _ | j
  · exact hl
  · exact hl
  · exact hl
  · cases hl

theorem StrobesQuiet.afterPulse {s : State} (h : StrobesQuiet s) (hc : s.cfg.pins.WellFormed) (k : Nat) (d : Quantity) :
    StrobesQuiet (afterPulse k d s) := by
  have hbegun : StrobesQuiet (Machine.afterPrim k (.assert .reset) s) := h.afterPrim (p := .assert .reset) hc trivial rfl k
  have hslept : StrobesQuiet (afterSleep (k + 1) d (Machine.afterPrim k (.assert .reset) s)) :=
    fun g hg => (asserts_afterSleep _ _ _ g).trans (hbegun g hg)
  refine hslept.afterPrim (p := .deassert .reset) ?_ trivial rfl (k + 2)
  rwa [(afterSleep_records _ _ _).flags.1, afterPrim_cfg]

/-- What a pulse leaves of the target, where one is asked for (R52). -/
def pulsed (reset : Bool) (g : Target) : Target :=
  if reset then { g with resetSince := none, cpu := .sinceReset 0 } else g

theorem pulsed_eq (reset : Bool) (g : Target) :
    pulsed reset g =
      { g with resetSince := (pulsed reset g).resetSince, cpu := if reset then .sinceReset 0 else g.cpu } := by
  cases reset <;> rfl

/-- The sequencer has come to line `k` of `RELEASE_BUS(reset)`, which `s` begins, by `m` ticks and `n` boundaries that
append the events `evs`. Where the boundaries were idle and no strobe was asserted, the target has seen nothing but
the pulse, if `after`. -/
structure ReleaseAt (reset : Bool) (k m n : Nat) (evs : List Event) (after : Bool) (s t : State) : Prop where
  reaches : Reaches (programOf s.cfg (.releaseBus reset)) m s t
  seq : t.seq = .running (.releaseBus reset) k
  polls : t.polls = 0
  records : RecordsStand (setOwn .released s) t
  env : t.env = s.env.drop n
  trace : t.trace = s.trace ++ evs
  setup : IocSetupKept s t
  good : KeepsGood s t
  quiet : StrobesQuiet s → StrobesQuiet t
  calm : StrobesQuiet s → IdleFor n s → Calm { s with target := pulsed after s.target } t

section
variable {reset : Bool} {s : State}

/-- The groups float (R95). -/
theorem exists_floated (hs : Good s) (hsound : Sound s) (hq : s.seq = .running (.releaseBus reset) 0) :
    ∃ t, ReleaseAt reset 4 4 3 floatEvents false s t ∧ t.out = s.out := by
  obtain ⟨hown, hfloats, _⟩ := releaseBus_lines s.cfg reset
  obtain ⟨hpins, _⟩ := hs.params
  have hq1 := afterOwn_seq hq .released
  have hgood1 := hs.afterOwn hq hown
  have hgood := hgood1.1.afterPrims hq1 hfloats
  have hquiet (h : StrobesQuiet s) :
      StaysShut 1 floats (afterOwn 0 .released s) ∧ StrobesQuiet (afterPrims 1 floats (afterOwn 0 .released s)) :=
    StrobesQuiet.afterPrims (s := afterOwn 0 .released s) floats_spare hpins h 1
  refine ⟨afterPrims 1 floats (afterOwn 0 .released s), ?_, afterPrims_out ..⟩
  exact {
    reaches := (reaches_own hq hown).trans
      (reaches_prims (ps := floats) (s := afterOwn 0 .released s) rfl hq1 hfloats hsound)
    seq := afterPrims_seq hq1 floats
    polls := rfl
    records := (afterOwn_records 0 .released s).trans (afterPrims_records ..)
    env := afterPrims_env ..
    trace := afterPrims_trace (fun p hp => (floats_plain p hp).unread) 1 (afterOwn 0 .released s)
    setup := afterPrims_iocSetup (fun p hp => (floats_plain p hp).unconfigured) 1 (afterOwn 0 .released s)
    good := hgood1.trans hgood
    quiet := fun h => (hquiet h).2
    calm := fun h hidle => by
      have hcalm := afterPrims_calm (s := afterOwn 0 .released s) floats_plain hpins (.inl hidle) (hquiet h).1
      exact ⟨hcalm.target, hcalm.ioc⟩ }

/-- The lines up to step 3 of `RELEASE_BUS`, with the whole pulse where it is asked for (R96). -/
theorem exists_pulsed (hs : Good s) (hsound : Sound s) (hq : s.seq = .running (.releaseBus reset) 0) :
    ∃ t, ReleaseAt reset (withdrawLine reset) (withdrawLine reset) (if reset then 7 else 3)
        (floatEvents ++ if reset then pulseEvents s.cfg else []) reset s t ∧
      t.out = if reset then withSignal s.cfg s.out .reset false else s.out := by
  obtain ⟨u, hu, hout⟩ := exists_floated hs hsound hq
  cases reset with
  | false => exact ⟨u, by simpa [withdrawLine] using hu, hout⟩
  | true =>
    have hcfg : u.cfg = s.cfg := hu.records.flags.1
    have hsoundu : Sound u := sound_of_drop hsound hcfg hu.env
    have hpulsable (h : StrobesQuiet s) : Pulsable u ∧ asserts u .reset = false := by
      obtain ⟨_, hreset⟩ := hu.good.1.target
      obtain ⟨_, hclken⟩ := hu.good.1.clock.1 (by rw [hu.seq]; rfl)
      refine ⟨⟨hu.good.1.params.1, hu.quiet h, hu.good.1.roles.1 .reset (by decide), asserts_iff.mpr hclken⟩, ?_⟩
      rw [asserts, hreset, hu.seq]
      rfl
    obtain ⟨hen, hdflt, hcmp⟩ := hu.setup
    obtain ⟨hen', hdflt', hcmp'⟩ := afterPulse_iocSetup 4 s.cfg.tResetMin u
    have hpulse := hu.good.1.afterPulse hu.seq (releaseBus_pulse u.cfg)
    rw [hcfg] at hpulse
    refine ⟨afterPulse 4 s.cfg.tResetMin u, ?_, ?_⟩
    · exact {
        reaches := hu.reaches.trans (reaches_pulse rfl (releaseBus_pulse s.cfg) hu.seq hsoundu)
        seq := afterPulse_seq hu.seq _
        polls := rfl
        records := hu.records.trans (afterPulse_records 4 s.cfg.tResetMin u)
        env := by rw [afterPulse_env, hu.env, List.drop_drop]; rfl
        trace := by rw [afterPulse_trace, hu.trace, List.append_assoc]; rfl
        setup := ⟨hen'.trans hen, hdflt'.trans hdflt, hcmp'.trans hcmp⟩
        good := hu.good.trans hpulse
        quiet := fun h => (hu.quiet h).afterPulse hu.good.1.params.1 4 _
        calm := fun h hidle => by
          obtain ⟨hready, hoff⟩ := hpulsable h
          have hcalm := hu.calm h (hidle.mono (by decide))
          obtain ⟨htarget, hioc⟩ := hready.afterPulse (IdleFor.drop (n := 3) (m := 4) hidle hu.env) hoff 4
          rw [hcfg] at htarget hioc
          refine ⟨?_, hioc.trans hcalm.ioc⟩
          rw [htarget, hcalm.target]
          rfl }
    · rw [afterPulse_out, hout, hcfg]
      rfl

/-- The lines up to the poll of BUSACK. -/
theorem exists_withdrawn (hs : Good s) (hsound : Sound s) (hq : s.seq = .running (.releaseBus reset) 0) :
    ∃ t, ReleaseAt reset (withdrawLine reset + 1) (withdrawLine reset + 1) (if reset then 8 else 4)
        (floatEvents ++ (if reset then pulseEvents s.cfg else []) ++ [.deassert .busreq]) reset s t ∧
      t.out = withSignal s.cfg (if reset then withSignal s.cfg s.out .reset false else s.out) .busreq false := by
  obtain ⟨u, hu, hout⟩ := exists_pulsed hs hsound hq
  obtain ⟨_, _, hline, _⟩ := releaseBus_lines s.cfg reset
  have hcfg : u.cfg = s.cfg := hu.records.flags.1
  have hsoundu : Sound u := sound_of_drop hsound hcfg hu.env
  have hplain : ∀ p ∈ [Prim.deassert .busreq], Plain p := by
    intro p hp
    obtain rfl := List.mem_singleton.mp hp
    exact ⟨trivial, rfl, rfl, rfl⟩
  have hpins : u.cfg.pins.WellFormed := hu.good.1.params.1
  have hquiet (h : StrobesQuiet s) := StrobesQuiet.afterPrims (ps := [.deassert .busreq]) (by
    intro p hp
    obtain rfl := List.mem_singleton.mp hp
    exact ⟨trivial, rfl⟩) hpins (hu.quiet h) (withdrawLine reset)
  obtain ⟨hen, hdflt, hcmp⟩ := hu.setup
  obtain ⟨hen', hdflt', hcmp'⟩ := afterPrims_iocSetup (fun p hp => (hplain p hp).unconfigured) (withdrawLine reset) u
  refine ⟨afterPrims (withdrawLine reset) [.deassert .busreq] u, ?_, ?_⟩
  · exact {
      reaches := hu.reaches.trans (reaches_prims (ps := [.deassert .busreq]) rfl hu.seq (.cons hline .nil) hsoundu)
      seq := afterPrims_seq hu.seq [.deassert .busreq]
      polls := rfl
      records := hu.records.trans (afterPrims_records ..)
      env := by rw [afterPrims_env, hu.env, List.drop_drop]; cases reset <;> rfl
      trace := by
        rw [afterPrims_trace fun p hp => (hplain p hp).unread, hu.trace]
        simp [eventOf]
      setup := ⟨hen'.trans hen, hdflt'.trans hdflt, hcmp'.trans hcmp⟩
      good := hu.good.trans (hu.good.1.afterPrims hu.seq (by rw [hcfg]; exact .cons hline .nil))
      quiet := fun h => (hquiet h).2
      calm := fun h hidle => by
        have hbefore : IdleFor (if reset then 7 else 3) s := hidle.mono (by cases reset <;> decide)
        have hafter : IdleFor 1 u :=
          IdleFor.drop (n := if reset then 7 else 3) (by cases reset <;> exact hidle) hu.env
        exact (hu.calm h hbefore).trans (afterPrims_calm hplain hpins (.inl hafter) (hquiet h).1) }
  · rw [afterPrims_out, hout, hcfg]
    rfl

end

/-! ### The poll's end -/

/-- `t` is `s` after line `k`, a sample of BUSACK that reads `bus`. -/
structure Answered (k : Nat) (bus : Bool) (s t : State) : Prop where
  records : RecordsStand s t
  polls : t.polls = 0
  env : t.env = s.env.tail
  dir : t.dir = s.dir
  out : t.out = s.out
  trace : t.trace = s.trace ++ [.sampleSig .busack bus]
  target : t.target = (boundary s).1.target
  setup : IocSetupKept s t
  latch : flagLatched t .m1 = false

theorem answered {s : State} (hs : Good s) {bus : Bool} (hbus : (boundary s).1.target.ownsBus = bus) (k : Nat) :
    Answered k bus s (afterPrim k (.sample .busack) s) := by
  have hb := boundary_kept s
  obtain ⟨hen, hdflt, hcmp⟩ := perform_ioc_other (p := .sample .busack) (by simp) (boundary s).1
  exact {
    records := afterPrim_records ..
    polls := rfl
    env := afterPrim_env ..
    dir := afterPrim_dir ..
    out := afterPrim_out ..
    trace := by
      show (perform (.sample .busack) (boundary s).1).trace = _
      rw [perform_trace, hb.trace, eventOf, hs.boundary.1.sensed_busack, hbus]
    target := rfl
    setup := ⟨hen.trans hb.en, hdflt.trans hb.dflt, hcmp.trans hb.cmp⟩
    latch := flagLatched_sampleBusack (s := (boundary s).1) (by rw [hb.cfg]; exact hs.params.1) }

/-- The state after `RELEASE_BUS` whose last sample is made in `s` (R97). -/
def afterReturn (reset : Bool) (s : State) : State :=
  opReturn (afterPrim (withdrawLine reset + 1) (.sample .busack) s)

section
variable {reset : Bool} {s : State}

/-- The last sample, and the return. -/
theorem reaches_return (hs : Good s) (hq : s.seq = .running (.releaseBus reset) (withdrawLine reset + 1))
    (hok : (boundary s).2 = .ok) (hbus : (boundary s).1.target.ownsBus = true) :
    Reaches (programOf s.cfg (.releaseBus reset)) 2 s (afterReturn reset s) := by
  obtain ⟨_, _, _, hpoll, hlength⟩ := releaseBus_lines s.cfg reset
  have hready : senses .busack true (boundary s).1 = true := by
    rw [senses, hs.boundary.1.sensed_busack, hbus]
    rfl
  have hq' := afterPrim_seq hq (.sample .busack)
  exact (reaches_poll_ready (pollLine_poll _ .busack true .returnWait none) hq hpoll (untaken_of_scopeless rfl hq) hok
    hready).trans (.ended hq' (tick_end hq' (List.getElem?_eq_none (by omega))) rfl)

/-- What the poll of BUSACK finds: the groups float and BUSREQ is withdrawn (R22, R95). -/
theorem Good.withdrawn (hs : Good s) (hown : s.own = .released)
    (hq : s.seq = .running (.releaseBus reset) (withdrawLine reset + 1)) :
    busIdle s := by
  obtain ⟨haddr, hstrobes, hreq, _⟩ := hs.releasing hown _ (by rw [hq]; rfl)
  exact ⟨hreq (by cases reset <;> decide), haddr (by cases reset <;> decide), hstrobes (by cases reset <;> decide)⟩

end

/-! ### The latches of RESET and BUSREQ -/

theorem withSignal_eq_self {s : State} {g : Signal} {active : Bool} (hout : isOutput s (s.cfg.pins.pin g) = true)
    (h : line s g = if active then .asserted else .deasserted) : withSignal s.cfg s.out g active = s.out :=
  setPin_eq_self ((latchAt_iff_line hout active).mpr h)

/-- Outside a pulse the latch of RESET is inactive already (R90). -/
theorem Good.withSignal_reset {s : State} (hs : Good s) (hpulse : pulseAt s.seq = false) :
    withSignal s.cfg s.out .reset false = s.out := by
  obtain ⟨_, hreset⟩ := hs.target
  rw [hpulse] at hreset
  exact withSignal_eq_self (hs.roles.1 .reset (by decide)) hreset

/-- Idle and Released: nothing of the bus is driven or requested (I-DIR). -/
theorem Good.idleReleased {s : State} (hs : Good s) (hown : s.own = .released) (hidle : s.seq = .idle) : busIdle s := by
  obtain ⟨haddr, hstrobes, hreq⟩ :=
    hs.outside hown (by rw [hidle]; rfl) (by rw [hidle]; rfl) (by rw [hidle]; rfl)
  exact ⟨hreq, haddr, hstrobes⟩

/-! ### `RELEASE_BUS` that returns -/

/-- `RELEASE_BUS(reset)`, issued in `s`, leads to `t`, the target having its bus after `n` failed samples. -/
structure ReleaseReturns (reset : Bool) (n : Nat) (s t : State) : Prop where
  exec : exec (.releaseBus reset) s = .next t
  returned : Returned t
  records : RecordsStand (setOwn .released (beginOp (.releaseBus reset) s)) t
  setup : IocSetupKept s t
  latch : flagLatched t .m1 = false
  out : t.out = withSignal s.cfg s.out .busreq false
  trace : t.trace = s.trace ++ releaseEvents s.cfg reset n
  good : Good t

/-- The groups float (R95). -/
theorem ReleaseReturns.floating {reset : Bool} {n : Nat} {s t : State} (h : ReleaseReturns reset n s t) :
    addrFloats t ∧ strobesFloat t ∧ dataFloats t := by
  have hown : t.own = .released := h.records.flags.2.1
  obtain ⟨_, haddr, hstrobes⟩ := h.good.idleReleased hown h.returned.1
  exact ⟨haddr, hstrobes, h.good.dataFloats hown⟩

theorem releaseReturns {reset : Bool} {n : Nat} {s w u : State} (hgood : Good s) (hidle : s.seq = .idle)
    (hw : ReleaseAt reset (withdrawLine reset + 1) (withdrawLine reset + 1) (if reset then 8 else 4)
      (floatEvents ++ (if reset then pulseEvents s.cfg else []) ++ [.deassert .busreq]) reset
      (beginOp (.releaseBus reset) s) w)
    (hwout : w.out = withSignal s.cfg (if reset then withSignal s.cfg s.out .reset false else s.out) .busreq false)
    (hreach : Reaches (programOf s.cfg (.releaseBus reset)) n w u) (hu : Sampled n w u)
    (hoff : 0 < n → w.target.ownsBus = false) (hok : (boundary u).2 = .ok)
    (hbus : (boundary u).1.target.ownsBus = true) (hn : n ≤ s.env.length) :
    ReleaseReturns reset n s (afterReturn reset u) := by
  obtain ⟨_, _, _, hpoll, hlength⟩ := releaseBus_lines s.cfg reset
  have hcfg : u.cfg = s.cfg := hu.records.flags.1.trans hw.records.flags.1
  have hq : u.seq = .running (.releaseBus reset) (withdrawLine reset + 1) := hu.seq.trans hw.seq
  have hend : Reaches (programOf s.cfg (.releaseBus reset)) 2 u (afterReturn reset u) := by
    have h := reaches_return hu.good.1 hq hok hbus
    rwa [hcfg] at h
  have hlast := answered hu.good.1 hbus (withdrawLine reset + 1)
  have hexec : Machine.exec (.releaseBus reset) s = .next (afterReturn reset u) :=
    exec_of_reaches trivial hidle rfl ((hw.reaches.trans hreach).trans hend) (by omega) rfl
  have hrecords := (hw.records.trans hu.records).trans hlast.records
  obtain ⟨_, _, _, _, hfault, hkilled, _⟩ := hrecords.flags
  have hout : (afterReturn reset u).out = u.out := hlast.out
  have htrace : (afterReturn reset u).trace = u.trace ++ [.sampleSig .busack true] := hlast.trace
  obtain ⟨hen, hdflt, hcmp⟩ := hw.setup
  obtain ⟨hen', hdflt', hcmp'⟩ := hu.setup
  obtain ⟨hen'', hdflt'', hcmp''⟩ := hlast.setup
  have hevents : List.replicate n (Event.sampleSig .busack w.target.ownsBus) =
      List.replicate n (Event.sampleSig .busack false) := by
    rcases Nat.eq_zero_or_pos n with rfl | hpos
    · rfl
    · rw [hoff hpos]
  exact {
    exec := hexec
    returned := ⟨rfl, hrecords.raised, rfl⟩
    records := ⟨hrecords.flags, hrecords.raised, hrecords.result⟩
    setup := ⟨hen''.trans (hen'.trans hen), hdflt''.trans (hdflt'.trans hdflt), hcmp''.trans (hcmp'.trans hcmp)⟩
    latch := hlast.latch
    out := by rw [hout, hu.out, hwout, hgood.withSignal_reset (by rw [hidle]; rfl), ite_self]
    trace := by
      rw [htrace, hu.trace, hw.trace, hevents, releaseEvents]
      simp only [beginOp_trace, List.append_assoc]
    good := (hgood.exec hexec (hfault.trans hgood.noFault) (hkilled.trans hgood.alive)).1 }

/-- Settles O25: the groups float, a pulse is made where it is asked for, BUSREQ is withdrawn, and the poll ends when the
target resumes. -/
theorem releaseBusCompletes : Obligations.ReleaseBusCompletes := by
  intro s reset n rest ⟨hgood, hown, hidle, hsound⟩ hfree henv hlimit
  have hbegin := hgood.beginOp (i := .releaseBus reset) hidle rfl
  obtain ⟨w, hw, hwout⟩ := exists_withdrawn (s := beginOp (.releaseBus reset) s) hbegin.1 hsound rfl
  have hcfg : w.cfg = s.cfg := hw.records.flags.1
  have hcalm := hw.calm (hgood.strobesQuiet hidle) (idleFor_of_replicate henv (by omega))
  obtain ⟨_, _, _, hheld⟩ := hgood.busHeld hown
  have hbusw : w.target.ownsBus = false := by rw [hcalm.target]; cases reset <;> exact hheld
  have henvw : w.env = List.replicate n idleSlot ++ slotOf .resume :: rest := by
    rw [hw.env, beginOp_env, henv, List.drop_append_of_le_length (by simp), List.drop_replicate, Nat.add_sub_cancel_left]
  obtain ⟨_, _, _, hpoll, _⟩ := releaseBus_lines s.cfg reset
  obtain ⟨u, hreach, hu⟩ := reaches_failed (i := .releaseBus reset) rfl hpoll hw.good.1 hw.seq
    (idleFor_of_replicate henvw le_rfl) hbusw
    (fun m hm => by rw [hcfg] at hm; rw [hw.polls, Nat.zero_add]; exact hlimit m hm) (by rw [henvw]; simp)
  obtain ⟨_, _, _, harmw, _⟩ := hw.records.flags
  have hfreeu : halted u = false := hu.free fun h => hfree (by rwa [halted_congr hcfg harmw hcalm.ioc] at h)
  have hq : u.seq = .running (.releaseBus reset) (withdrawLine reset + 1) := hu.seq.trans hw.seq
  obtain ⟨hreq, _⟩ := hu.good.1.withdrawn (hu.records.flags.2.1.trans hw.records.flags.2.1) hq
  have hrun : canRun u = true :=
    hu.good.1.canRun (by rw [hq]; cases reset <;> rfl) (by rw [hq]; rfl) hfreeu
  have hbusu : u.target.ownsBus = false := by rw [hu.target]; exact hbusw
  have hanswer := boundary_resume (rest := rest) (by rw [hu.env, henvw, List.drop_left' (by simp)]) hbusu hreq hrun
  have hreturns := releaseReturns hgood hidle hw hwout hreach hu (fun _ => hbusw) (by rw [hanswer]) (by rw [hanswer])
    (by rw [henv]; simp; omega)
  have htarget : (afterReturn reset u).target =
      { pulsed reset s.target with
        ownsBus := true, int := u.target.int, clk := u.target.clk, edge := false } := by
    have hlast : (afterReturn reset u).target = (boundary u).1.target := rfl
    rw [hlast, hanswer, hu.target, hcalm.target]
    rfl
  rw [pulsed_eq] at htarget
  obtain ⟨m1, _⟩ := hgood.target
  obtain ⟨hcfg', hown', hmode, harm, hfault, _⟩ := hreturns.records.flags
  obtain ⟨haddr, hstrobes, hdata⟩ := hreturns.floating
  refine ⟨_, hreturns.exec, hreturns.returned, hown', hcfg', hmode, harm, hfault, hreturns.records.result,
    hreturns.setup, hreturns.latch, haddr, hstrobes, hdata, (groupsOnly_law.exec hreturns.exec).others, ?_⟩
  simp [StoresKept, htarget, m1 hheld, hreturns.out, hreturns.trace]

/-- Settles O26: the lines write what stands there already, and the first sample of BUSACK reads asserted. -/
theorem releaseBusAgain : Obligations.ReleaseBusAgain := by
  intro s reset hgood hown hidle hbus hquiet
  have hsound : Sound s := fun l hl => by rw [hquiet l hl]; rfl
  have hbegin := hgood.beginOp (i := .releaseBus reset) hidle rfl
  obtain ⟨w, hw, hwout⟩ := exists_withdrawn (s := beginOp (.releaseBus reset) s) hbegin.1 hsound rfl
  have hcalm := hw.calm (hgood.strobesQuiet hidle) (Quiet.idleFor (s := beginOp (.releaseBus reset) s) hquiet _)
  have hboundary := IdleFor.boundary (n := 0) (s := w)
    (IdleFor.drop (n := if reset then 8 else 4) (Quiet.idleFor (s := beginOp (.releaseBus reset) s) hquiet _) hw.env)
  have hbusw : w.target.ownsBus = true := by rw [hcalm.target]; cases reset <;> exact hbus
  have hreturns := releaseReturns (n := 0) hgood hidle hw hwout .refl (.refl hw.good.1)
    (fun h => absurd h (Nat.lt_irrefl 0)) (by rw [hboundary]) (by rw [hboundary]; exact hbusw) (Nat.zero_le _)
  have htarget : (afterReturn reset w).target =
      { pulsed reset s.target with int := w.target.int, clk := w.target.clk, edge := false } := by
    have hlast : (afterReturn reset w).target = (boundary w).1.target := rfl
    rw [hlast, hboundary]
    show { w.target with edge := false } = _
    rw [hcalm.target]
    rfl
  rw [pulsed_eq] at htarget
  obtain ⟨hreq, haddr, hstrobes⟩ := hgood.idleReleased hown hidle
  obtain ⟨haddr', hstrobes', hdata'⟩ := hreturns.floating
  have hdir : (afterReturn reset w).dir = s.dir := by
    refine (groupsOnly_law.exec hreturns.exec).dir_eq fun g => ⟨false, ?_⟩
    cases g with
    | addr => exact ⟨haddr, haddr'⟩
    | data => exact ⟨hgood.dataFloats hown, hdata'⟩
    | strobes => exact ⟨hstrobes, hstrobes'⟩
  have hout : (afterReturn reset w).out = s.out :=
    hreturns.out.trans (withSignal_eq_self (hgood.roles.1 .busreq (by decide)) hreq)
  have hflags : FlagsKept s (afterReturn reset w) := by
    obtain ⟨hcfg, hown', hrest⟩ := hreturns.records.flags
    exact ⟨hcfg, hown'.trans hown.symm, hrest⟩
  refine ⟨_, hreturns.exec, hreturns.returned, hflags, hreturns.records.result, hdir, hout, hreturns.setup,
    hreturns.latch, halted_of_latch hreturns.latch, ?_⟩
  simp [StoresKept, htarget, hbus, hreturns.trace]

end Sys2Proof.Machine
end

section
/-! The two timeouts of the handshake (R100): `TAKE_BUS` up to its poll of BUSACK, and the polls that run out. -/

namespace Sys2Proof.Machine

/-! ### The lines of `TAKE_BUS` -/

/-- The line at which `TAKE_BUS` withdraws its request after `Timeout(AckWait)` (R100). -/
def cleanupLine (bank : Option Nat) : Nat := if bank.isSome then 19 else 10

theorem takeFor_scope (bank : Option Nat) : scopeHandler (takeFor bank) = none := by cases bank <;> rfl

theorem takeFor_wellFormed {bank : Option Nat} (h : ∀ b ∈ bank, b < 256) : (takeFor bank).WellFormed := by
  cases bank with
  | none => trivial
  | some b => exact h b rfl

theorem takeFor_allowed (bank : Option Nat) (s : State) : allowed s (takeFor bank) = true := by cases bank <;> rfl

theorem latchLines_pair (c : Params) (a : Addr) : ∃ l l', latchLines c a = [l, l'] := by
  unfold latchLines
  split <;> exact ⟨_, _, rfl⟩

/-- The lines of `TAKE_BUS` that a request and its timeout come to (R91, R100). -/
theorem takeFor_lines (c : Params) (bank : Option Nat) :
    (programOf c (takeFor bank))[0]? = some (ln .takeBus 1 0 (.prim (.assert .busreq))) ∧
      (programOf c (takeFor bank))[1]? =
        some (ln .takeBus 2 0 (.poll .busack false .ackWait (some (cleanupLine bank)))) ∧
      (programOf c (takeFor bank))[cleanupLine bank]? = some (ln .takeBus 2 0 (.prim (.deassert .busreq))) ∧
      (programOf c (takeFor bank))[cleanupLine bank + 1]? = some (ln .takeBus 2 0 (.fail (.timeout .ackWait))) ∧
      (programOf c (takeFor bank)).length = cleanupLine bank + 2 := by
  cases bank with
  | none => exact ⟨rfl, rfl, rfl, rfl, rfl⟩
  | some b =>
    obtain ⟨l, l', hlatch⟩ := latchLines_pair c c.bankSelectPort
    simp only [takeFor, programOf, takeBusBankProgram, bankSelectProgram, writeCycle, hlatch]
    exact ⟨rfl, rfl, rfl, rfl, rfl⟩

/-- `t` is `s` after step 1 of `TAKE_BUS(bank)`, which has just been issued in it. -/
structure Requested (bank : Option Nat) (s t : State) : Prop where
  reaches : Reaches (programOf s.cfg (takeFor bank)) 1 (beginOp (takeFor bank) s) t
  seq : t.seq = .running (takeFor bank) 1
  polls : t.polls = 0
  records : RecordsStand (beginOp (takeFor bank) s) t
  env : t.env = s.env.drop 1
  dir : t.dir = s.dir
  out : t.out = withSignal s.cfg s.out .busreq true
  trace : t.trace = s.trace ++ [.assert .busreq]
  setup : IocSetupKept s t
  good : Good t
  line : line t .busreq = .asserted
  quiet : StrobesQuiet t
  calm : Sheltered [.assert .busreq] s → Calm s t
  offBus : OffBus s → OffBus t

theorem exists_requested {bank : Option Nat} {s : State} (hs : Good s) (hidle : s.seq = .idle) (hsound : Sound s) :
    ∃ t, Requested bank s t := by
  obtain ⟨hline, _⟩ := takeFor_lines s.cfg bank
  have hbegin := hs.beginOp (i := takeFor bank) hidle (takeFor_allowed bank s)
  have hpins : s.cfg.pins.WellFormed := hs.params.1
  have hplain : ∀ p ∈ [Prim.assert .busreq], Plain p := by
    simp only [List.mem_singleton, forall_eq]
    exact ⟨trivial, rfl, rfl, rfl⟩
  have hquiet := StrobesQuiet.afterPrims (ps := [.assert .busreq]) (s := beginOp (takeFor bank) s)
    (by simp only [List.mem_singleton, forall_eq]; exact ⟨trivial, rfl⟩) hpins (hs.strobesQuiet hidle) 0
  refine ⟨afterPrim 0 (.assert .busreq) (beginOp (takeFor bank) s), ?_⟩
  exact {
    reaches := reaches_prims (ps := [.assert .busreq]) (takeFor_scope bank) rfl (.cons hline .nil) hsound
    seq := afterPrim_seq (i := takeFor bank) rfl _
    polls := rfl
    records := afterPrim_records ..
    env := by rw [afterPrim_env, List.drop_one]; rfl
    dir := afterPrim_dir ..
    out := afterPrim_out ..
    trace := afterPrim_trace 0 rfl (beginOp (takeFor bank) s)
    setup := afterPrim_iocSetup 0 rfl (beginOp (takeFor bank) s)
    good := (hbegin.1.afterPrim rfl hline).1
    line := line_perform_assert hbegin.1.boundary.1.params.1 (by decide) (hbegin.1.boundary.1.roles.1 .busreq (by decide))
    quiet := hquiet.2
    calm := fun h => by
      have hsheltered : Sheltered [.assert .busreq] (beginOp (takeFor bank) s) :=
        h.imp_right fun ⟨o, hps⟩ => ⟨⟨o.bus, o.m1, o.busreq, o.reset⟩, hps⟩
      have hcalm := afterPrims_calm (s := beginOp (takeFor bank) s) hplain hpins hsheltered hquiet.1
      exact ⟨hcalm.target, hcalm.ioc⟩
    offBus := fun h =>
      OffBus.afterPrim (p := .assert .busreq) (s := beginOp (takeFor bank) s) hpins trivial (by simp) (by simp)
        ⟨h.bus, h.m1, h.busreq, h.reset⟩ 0 }

/-! ### A poll of BUSACK that runs out -/

theorem timeOut_polls (w : Wait) (c : Option Nat) (s : State) (n : Nat) :
    timeOut w c { s with polls := n } = timeOut w c s := by cases c <;> rfl

/-- WHERE THE TARGET DOES NOT ANSWER within `POLL_LIMIT` samples the poll times out after the last of them (R98). -/
theorem reaches_timeOut {prog : List ProgLine} {i : Instr} {k : Nat} {want : Bool} {w : Wait} {c : Option Nat} {pos : Pos}
    (hscope : scopeHandler i = none) (hl : prog[k]? = some ⟨pos, .poll .busack want w c, none⟩) {n : Nat} {s : State}
    (hs : Good s) (hq : s.seq = .running i k) (hpolls : s.polls = 0) (hidle : IdleFor (n + 1) s)
    (hbus : s.target.ownsBus = !want) (hlimit : s.cfg.pollLimit = some (n + 1)) (hleft : n < s.env.length) :
    ∃ u t, Reaches prog n s u ∧ u.seq = .running i k ∧ tick prog u = timeOut w c t ∧ Sampled (n + 1) s t := by
  obtain ⟨u, hreach, hu⟩ := reaches_failed hscope hl hs hq (hidle.mono (Nat.le_succ n)) hbus
    (fun m hm => by rw [hlimit] at hm; cases hm; omega) hleft
  have hidle1 : IdleFor 1 u := IdleFor.drop hidle hu.env
  have hboundary := IdleFor.boundary (n := 0) hidle1
  have hq' := hu.seq.trans hq
  refine ⟨u, failedSample (.sample .busack) u, hreach, hq', ?_, hu.trans (.one hu.good.1 hidle1)⟩
  rw [tick_poll_timeOut (pollLine_poll pos .busack want w c) hq' hl (untaken_of_scopeless hscope hq')
    (by rw [hboundary]) (hu.good.1.unanswered hidle1 (by rw [hu.target]; exact hbus))
    (by rw [hu.records.flags.1]; exact hlimit) (by rw [hu.polls]; omega)]
  exact (timeOut_polls w c (perform (.sample .busack) (boundary u).1) _).symm

/-! ### `Timeout(ReturnWait)` -/

theorem releaseTimesOut {s : State} {reset : Bool} {n : Nat} (hs : Held s) (hquiet : Quiet s)
    (hlimit : s.cfg.pollLimit = some (n + 1)) (hleft : n + 1 + (if reset then 7 else 3) < s.env.length) :
    ∃ v, exec (.releaseBus reset) s = .next (raiseFault (.timeout .returnWait) v) ∧ v.own = .released ∧ busIdle v ∧
      Good v ∧ v.seq = .running (.releaseBus reset) (withdrawLine reset + 1) ∧
      v.trace = s.trace ++ floatEvents ++ (if reset then pulseEvents s.cfg else []) ++ [Event.deassert .busreq] ++
          List.replicate (n + 1) (Event.sampleSig .busack false) := by
  obtain ⟨hgood, hown, hidle, hsound⟩ := hs
  have hbegin := hgood.beginOp (i := .releaseBus reset) hidle rfl
  have hidlefor (m : Nat) : IdleFor m (beginOp (.releaseBus reset) s) :=
    Quiet.idleFor (s := beginOp (.releaseBus reset) s) hquiet m
  obtain ⟨w, hw, _⟩ := exists_withdrawn (s := beginOp (.releaseBus reset) s) hbegin.1 hsound rfl
  have hcalm := hw.calm (hgood.strobesQuiet hidle) (hidlefor _)
  obtain ⟨_, _, _, hheld⟩ := hgood.busHeld hown
  have hbus : w.target.ownsBus = false := by rw [hcalm.target]; cases reset <;> exact hheld
  obtain ⟨_, _, _, hpoll, hlength⟩ := releaseBus_lines s.cfg reset
  have hscript : n < w.env.length := by
    rw [hw.env, beginOp_env, List.length_drop]
    have hlines : (if reset then 8 else 4) = (if reset then 7 else 3) + 1 := by cases reset <;> rfl
    omega
  obtain ⟨u, v, hreach, hqu, htick, hv⟩ := reaches_timeOut (i := .releaseBus reset) rfl hpoll hw.good.1 hw.seq hw.polls
    (IdleFor.drop (n := if reset then 8 else 4) (hidlefor _) hw.env) hbus
    (by rw [hw.records.flags.1]; exact hlimit) hscript
  have hq : v.seq = .running (.releaseBus reset) (withdrawLine reset + 1) := hv.seq.trans hw.seq
  have hownv : v.own = .released := hv.records.flags.2.1.trans hw.records.flags.2.1
  obtain ⟨hends, _⟩ := raiseFault_ends (s := v) (by rfl) hq (.timeout .returnWait)
  have hexec : exec (.releaseBus reset) s = .next (raiseFault (.timeout .returnWait) v) :=
    exec_of_reaches trivial hidle rfl ((hw.reaches.trans hreach).trans (.ended hqu htick hends))
      (by rw [hlength]; omega) hends
  refine ⟨v, hexec, hownv, hv.good.1.withdrawn hownv hq, hv.good.1, hq, ?_⟩
  rw [hv.trace, hw.trace, hbus]
  simp only [beginOp_trace, beginOp_cfg, List.append_assoc]

/-! ### `Timeout(AckWait)` -/

theorem jumpTo_running {i : Instr} {j : Nat} {s : State} (hq : s.seq = .running i j) (k : Nat) :
    (jumpTo k s).seq = .running i k := by simp [jumpTo, hq]

/-- The state after the cleanup of `TAKE_BUS`, which begins in `s` (R100). -/
def afterCleanup (bank : Option Nat) (s : State) : State :=
  raiseFault (.timeout .ackWait) (afterPrim (cleanupLine bank) (.deassert .busreq) (jumpTo (cleanupLine bank) s))

/-- The cleanup: the request is withdrawn and the fault raised (R100). -/
theorem reaches_cleanup {bank : Option Nat} {s : State} (hq : s.seq = .running (takeFor bank) 1) (hsound : Sound s) :
    Reaches (programOf s.cfg (takeFor bank)) 2 (jumpTo (cleanupLine bank) s) (afterCleanup bank s) ∧
      (afterCleanup bank s).seq = .idle := by
  obtain ⟨_, _, hwithdraw, hfail, _⟩ := takeFor_lines s.cfg bank
  have hq1 : (jumpTo (cleanupLine bank) s).seq = .running (takeFor bank) (cleanupLine bank) := jumpTo_running hq _
  have hq2 := afterPrim_seq hq1 (.deassert .busreq)
  obtain ⟨hends, _⟩ := raiseFault_ends (takeFor_scope bank) hq2 (.timeout .ackWait)
  have hprims : Reaches (programOf s.cfg (takeFor bank)) 1 _ _ :=
    reaches_prims (ps := [.deassert .busreq]) (s := jumpTo (cleanupLine bank) s) (takeFor_scope bank) hq1
      (.cons hwithdraw .nil) hsound
  exact ⟨hprims.trans (.ended hq2 (tick_line hq2 hfail) hends), hends⟩

theorem takeTimesOut {s : State} {bank : Option Nat} {n : Nat} (hgood : Good s) (hidle : s.seq = .idle)
    (hbus : s.target.ownsBus = true) (hquiet : Quiet s) (hlimit : s.cfg.pollLimit = some (n + 1))
    (hleft : n + 1 < s.env.length) (hwf : ∀ b ∈ bank, b < 256) :
    ∃ v, exec (takeFor bank) s = .next (afterCleanup bank v) ∧ (afterCleanup bank v).seq = .idle ∧ v.own = s.own ∧
      v.dir = s.dir ∧ Good v ∧
      v.trace = s.trace ++ [Event.assert .busreq] ++ List.replicate (n + 1) (Event.sampleSig .busack true) := by
  have hsound : Sound s := fun l hl => by rw [hquiet l hl]; rfl
  obtain ⟨_, hpoll, _, _, hlength⟩ := takeFor_lines s.cfg bank
  obtain ⟨w, hw⟩ := exists_requested (bank := bank) hgood hidle hsound
  have hcfg : w.cfg = s.cfg := hw.records.flags.1
  have hbusw : w.target.ownsBus = true := by
    rw [(hw.calm (.inl (hquiet.idleFor _))).target]
    exact hbus
  obtain ⟨u, v, hreach, hqu, htick, hv⟩ := reaches_timeOut (takeFor_scope bank) hpoll hw.good hw.seq hw.polls
    (IdleFor.drop (n := 1) (hquiet.idleFor _) hw.env) hbusw (by rw [hcfg]; exact hlimit)
    (by rw [hw.env, List.length_drop]; omega)
  have hcfgv : v.cfg = s.cfg := hv.records.flags.1.trans hcfg
  have hq : v.seq = .running (takeFor bank) 1 := hv.seq.trans hw.seq
  have hsoundv : Sound v := sound_of_drop hsound hcfgv (by rw [hv.env, hw.env, List.drop_drop])
  obtain ⟨hclean, hends⟩ := reaches_cleanup hq hsoundv
  rw [hcfgv] at hclean
  have hjump : Reaches (programOf s.cfg (takeFor bank)) 1 u (jumpTo (cleanupLine bank) v) :=
    .next hqu htick (j := takeFor bank) (m := cleanupLine bank) (jumpTo_running hq _) (by cases bank <;> simp [cleanupLine])
  have hexec : exec (takeFor bank) s = .next (afterCleanup bank v) :=
    exec_of_reaches (takeFor_wellFormed hwf) hidle (takeFor_allowed bank s)
      (((hw.reaches.trans hreach).trans hjump).trans hclean) (by rw [hlength]; omega) hends
  exact ⟨v, hexec, hends, hv.records.flags.2.1.trans hw.records.flags.2.1, hv.dir.trans hw.dir, hv.good.1,
    by rw [hv.trace, hw.trace, hbusw]⟩

theorem raiseFault_sameLines (f : Fault) (s : State) : SameLines s (raiseFault f s) := .of_registers rfl rfl rfl

theorem afterPrim_line (k : Nat) (p : Prim) (s : State) (g : Signal) :
    line (afterPrim k p s) g = line (perform p (boundary s).1) g := rfl

theorem afterCleanup_line {s : State} (hs : Good s) (bank : Option Nat) :
    line (afterCleanup bank s) .busreq = .deasserted := by
  have hb := boundary_kept (jumpTo (cleanupLine bank) s)
  have hpins : (boundary (jumpTo (cleanupLine bank) s)).1.cfg.pins.WellFormed := by
    rw [hb.cfg]
    exact hs.params.1
  rw [afterCleanup, (raiseFault_sameLines _ _).line, afterPrim_line]
  refine line_perform_deassert hpins (by decide) ?_
  rw [hb.cfg, isOutput_congr hb.cfg hb.dir]
  exact hs.roles.1 .busreq (by decide)

theorem afterCleanup_kept (bank : Option Nat) (s : State) :
    (afterCleanup bank s).own = s.own ∧ (afterCleanup bank s).dir = s.dir :=
  ⟨(afterPrim_records (cleanupLine bank) (.deassert .busreq) (jumpTo (cleanupLine bank) s)).flags.2.1,
    afterPrim_dir (cleanupLine bank) (.deassert .busreq) (jumpTo (cleanupLine bank) s)⟩

theorem afterCleanup_trace (bank : Option Nat) (s : State) :
    (afterCleanup bank s).trace = s.trace ++ [.deassert .busreq] :=
  afterPrim_trace (cleanupLine bank) rfl (jumpTo (cleanupLine bank) s)

/-- Settles O24: both polls run out, and the cleanup of each is read off its lines. -/
theorem timeoutCleanup : Obligations.TimeoutCleanup := by
  have hsucc {s : State} {l : Nat} (hs : Good s) (hl : s.cfg.pollLimit = some l) : ∃ n, l = n + 1 := by
    obtain ⟨_, _, hpos, _⟩ := hs.params
    rw [hl] at hpos
    exact Nat.exists_eq_succ_of_ne_zero fun e => hpos (by rw [e])
  constructor
  · intro s bank l hgood hown hidle hbus hquiet hlimit hleft hwf
    obtain ⟨n, rfl⟩ := hsucc hgood hlimit
    obtain ⟨v, hexec, hends, hownv, hdir, hv, htrace⟩ := takeTimesOut hgood hidle hbus hquiet hlimit hleft hwf
    refine ⟨_, hexec, hends, rfl, ?_, ?_, afterCleanup_line hv bank, ?_⟩
    · exact (afterCleanup_kept bank v).1.trans (hownv.trans hown)
    · exact (afterCleanup_kept bank v).2.trans hdir
    · rw [afterCleanup_trace, htrace]
  · intro s reset l hs hquiet hlimit hleft
    obtain ⟨n, rfl⟩ := hsucc hs.1 hlimit
    obtain ⟨v, hexec, hown, ⟨hreq, haddr, hstrobes⟩, hgood, hq, htrace⟩ := releaseTimesOut hs hquiet hlimit hleft
    obtain ⟨hends, _⟩ := raiseFault_ends (s := v) rfl hq (.timeout .returnWait)
    exact ⟨_, hexec, hends, rfl, hown, haddr, hstrobes, hgood.dataFloats hown, hreq, htrace⟩

end Sys2Proof.Machine
end

section
/-! The four busy-waits without `POLL_LIMIT` before a target that does nothing (R98, R181): a step of the machine takes one
failed sample and leaves everything that the poll depends on. -/

namespace Sys2Proof.Machine

/-! ### A poll that waits -/

/-- The sequencer stands at a poll of `i` in line `k`, the environment does nothing more, and the sample, the event `e`,
fails. -/
structure Unready (i : Instr) (k : Nat) (p : Prim) (ready : State → Bool) (e : Event) (s : State) : Prop where
  seq : s.seq = .running i k
  env : s.env = []
  untaken : Untaken s
  fails : ready (boundary s).1 = false
  event : eventOf p (boundary s).1 = e

section
variable {i : Instr} {k : Nat} {p : Prim} {ready : State → Bool} {e : Event} {prog : List ProgLine} {l : ProgLine} {w : Wait}
  {c : Option Nat} {s : State}

theorem Unready.tick (h : Unready i k p ready e s) (hl : PollLine l p ready w c) (hk : prog[k]? = some l)
    (hlimit : s.cfg.pollLimit = none) : tick prog s = failedSample p s :=
  tick_poll_failed hl h.seq hk h.untaken (by rw [boundary_nil h.env]) h.fails (by simp [Patient, hlimit])

theorem Unready.trace (h : Unready i k p ready e s) : (failedSample p s).trace = s.trace ++ [e] := by
  show (perform p (boundary s).1).trace = _
  rw [perform_trace, (boundary_kept s).trace, h.event]

/-- A run that comes to the poll waits there with one failed sample more. -/
theorem Unready.runOp_eq {n : Nat} {u : State} (h : Unready i k p ready e s) (hl : PollLine l p ready w c)
    (hk : prog[k]? = some l) (hlimit : s.cfg.pollLimit = none) (hreach : Reaches prog n u s) (hn : n ≤ prog.length) :
    runOp prog u = failedSample p s := by
  have htick := h.tick hl hk hlimit
  rw [hreach.runOp_waits (by omega) h.seq, htick]
  rw [htick, failedSample_seq, failedSample_env, h.seq, h.env]
  simp [parked]

/-- THE HOLD of R9: an operation that comes to a poll whose sample fails, and fails again after that. -/
theorem holdsAt {x : State} {n : Nat} {evs : List Event} {keeps : State → Prop} (hwf : i.WellFormed)
    (hidle : s.seq = .idle) (hallowed : allowed s i = true) (hl : PollLine l p ready w c)
    (hk : (programOf s.cfg i)[k]? = some l) (hlimit : s.cfg.pollLimit = none)
    (hreach : Reaches (programOf s.cfg i) n (beginOp i s) x) (hn : n ≤ (programOf s.cfg i).length)
    (hcfg : x.cfg = s.cfg) (htrace : x.trace = s.trace ++ evs) (hx : Unready i k p ready e x)
    (hx' : Unready i k p ready e (failedSample p x)) (hkeeps : keeps (failedSample p x))
    (hkeeps' : keeps (failedSample p (failedSample p x))) : HoldsAt i k evs e keeps s := by
  have hcfg' : (failedSample p x).cfg = s.cfg := (failedSample_records p x).flags.1.trans hcfg
  refine ⟨failedSample p x, failedSample p (failedSample p x), ?_, ?_, hx'.seq, failedSample_seq p _,
    by rw [hx.trace, htrace], hx'.trace, hkeeps, hkeeps'⟩
  · rw [exec_eq_issue, issue_next hwf hidle hallowed, hx.runOp_eq hl hk (by rw [hcfg]; exact hlimit) hreach hn]
  · rw [step_running hx'.seq, hcfg', hx'.runOp_eq hl hk (by rw [hcfg']; exact hlimit) .refl (Nat.zero_le _)]

end

/-! ### BUSACK -/

theorem idleFor_of_nil {s : State} (h : s.env = []) (n : Nat) : IdleFor n s := by simp [IdleFor, h]

theorem Good.unready {i : Instr} {k : Nat} {want : Bool} {s : State} (hs : Good s) (hscope : scopeHandler i = none)
    (hq : s.seq = .running i k) (henv : s.env = []) (hbus : s.target.ownsBus = !want) :
    Unready i k (.sample .busack) (senses .busack want) (.sampleSig .busack (!want)) s where
  seq := hq
  env := henv
  untaken := untaken_of_scopeless hscope hq
  fails := hs.unanswered (idleFor_of_nil henv 1) hbus
  event := by
    have hsame : (Machine.boundary s).1.target.ownsBus = s.target.ownsBus := by
      rw [boundary_nil henv]
      rfl
    rw [eventOf, hs.boundary.1.sensed_busack, hsame, hbus]

/-- A poll of BUSACK before a target that does nothing: what a failed sample keeps holds of the operation's state and of
the step's. -/
theorem holdsAt_busack {i : Instr} {k n : Nat} {want : Bool} {w : Wait} {c : Option Nat} {pos : Pos} {s x : State}
    {evs : List Event} {keeps : State → Prop} (hwf : i.WellFormed) (hidle : s.seq = .idle)
    (hallowed : allowed s i = true) (hscope : scopeHandler i = none)
    (hk : (programOf s.cfg i)[k]? = some ⟨pos, .poll .busack want w c, none⟩) (hlimit : s.cfg.pollLimit = none)
    (hreach : Reaches (programOf s.cfg i) n (beginOp i s) x) (hn : n ≤ (programOf s.cfg i).length) (hgood : Good x)
    (hq : x.seq = .running i k) (hcfg : x.cfg = s.cfg) (henv : x.env = []) (hbus : x.target.ownsBus = !want)
    (htrace : x.trace = s.trace ++ evs) (hkeeps : ∀ m t, Sampled m x t → keeps t) :
    HoldsAt i k evs (.sampleSig .busack (!want)) keeps s := by
  have hone := Sampled.one hgood (idleFor_of_nil henv 1)
  have henv' : (failedSample (.sample .busack) x).env = [] := by rw [hone.env, henv, List.drop_nil]
  have htwo := hone.trans (.one hone.good.1 (idleFor_of_nil henv' 1))
  exact holdsAt hwf hidle hallowed (pollLine_poll pos .busack want w c) hk hlimit hreach hn hcfg htrace
    (hgood.unready hscope hq henv hbus)
    (hone.good.1.unready hscope (hone.seq.trans hq) henv' (by rw [hone.target]; exact hbus))
    (hkeeps _ _ hone) (hkeeps _ _ htwo)

/-- `TAKE_BUS` waits for the grant. -/
theorem takeBus_holds {s : State} {bank : Option Nat} (hgood : Good s) (hown : s.own = .released) (hidle : s.seq = .idle)
    (hbus : s.target.ownsBus = true) (henv : s.env = []) (hlimit : s.cfg.pollLimit = none) (hwf : ∀ b ∈ bank, b < 256) :
    HoldsAt (takeFor bank) 1 [.assert .busreq] (.sampleSig .busack true)
      (fun x => line x .busreq = .asserted ∧ x.own = .released ∧ x.fault = none ∧ x.dir = s.dir ∧
        x.target.ownsBus = true ∧ StoresKept s x) s := by
  obtain ⟨_, hpoll, _, _, hlength⟩ := takeFor_lines s.cfg bank
  obtain ⟨x, hx⟩ := exists_requested (bank := bank) hgood hidle (by simp [Sound, henv])
  have hcalm := hx.calm (.inl (idleFor_of_nil henv _))
  obtain ⟨htarget, hstores⟩ := hcalm.kept
  obtain ⟨hcfg, hown', _, _, hfault, _⟩ := hx.records.flags
  refine holdsAt_busack (want := false) (takeFor_wellFormed hwf) hidle (takeFor_allowed bank s) (takeFor_scope bank) hpoll
    hlimit hx.reaches (by omega) hx.good hx.seq hcfg (by rw [hx.env, henv, List.drop_nil]) (htarget.1.trans hbus)
    hx.trace fun m t ht => ?_
  obtain ⟨_, hownt, _, _, hfaultt, _⟩ := ht.records.flags
  refine ⟨?_, hownt.trans (hown'.trans hown), hfaultt.trans (hfault.trans hgood.noFault), ht.dir.trans hx.dir, ?_, ?_⟩
  · exact (line_congr ht.records.flags.1 ht.dir ht.out .busreq).trans hx.line
  · rw [ht.target]
    exact htarget.1.trans hbus
  · rw [StoresKept, ht.target]
    exact hstores

/-- `RELEASE_BUS` waits for the target to resume. -/
theorem releaseBus_holds {s : State} {reset : Bool} (hs : Held s) (henv : s.env = []) (hlimit : s.cfg.pollLimit = none) :
    HoldsAt (.releaseBus reset) (if reset then 8 else 5)
      (floatEvents ++ (if reset then pulseEvents s.cfg else []) ++ [.deassert .busreq]) (.sampleSig .busack false)
      (fun x => line x .busreq = .deasserted ∧ x.own = .released ∧ x.fault = none ∧ addrFloats x ∧ strobesFloat x ∧
        dataFloats x ∧ x.target.ownsBus = false ∧ StoresKept s x) s := by
  obtain ⟨hgood, hown, hidle, hsound⟩ := hs
  have hbegin := hgood.beginOp (i := .releaseBus reset) hidle rfl
  obtain ⟨x, hx, _⟩ := exists_withdrawn (s := beginOp (.releaseBus reset) s) hbegin.1 hsound rfl
  have hcalm := hx.calm (hgood.strobesQuiet hidle) (idleFor_of_nil (s := beginOp (.releaseBus reset) s) henv _)
  obtain ⟨_, _, _, hheld⟩ := hgood.busHeld hown
  have hbus : x.target.ownsBus = false := by rw [hcalm.target]; cases reset <;> exact hheld
  have hstores : StoresKept s x := by
    rw [StoresKept, hcalm.target, pulsed_eq]
    exact ⟨rfl, rfl, rfl⟩
  obtain ⟨_, _, _, hpoll, hlength⟩ := releaseBus_lines s.cfg reset
  obtain ⟨hcfg, hown', _, _, hfault, _⟩ := hx.records.flags
  rw [show (if reset then 8 else 5) = withdrawLine reset + 1 by cases reset <;> rfl]
  refine holdsAt_busack (want := true) trivial hidle rfl rfl hpoll hlimit hx.reaches (by omega) hx.good.1 hx.seq hcfg
    (by rw [hx.env, beginOp_env, henv, List.drop_nil]) hbus hx.trace fun m t ht => ?_
  obtain ⟨_, hownt, _, _, hfaultt, _⟩ := ht.records.flags
  have hreleased : t.own = .released := hownt.trans hown'
  obtain ⟨hreq, haddr, hstrobes⟩ := ht.good.1.withdrawn hreleased (ht.seq.trans hx.seq)
  refine ⟨hreq, hreleased, hfaultt.trans (hfault.trans hgood.noFault), haddr, hstrobes, ht.good.1.dataFloats hreleased,
    ?_, ?_⟩
  · rw [ht.target]
    exact hbus
  · rw [StoresKept, ht.target]
    exact hstores

/-! ### M1 -/

/-- M1 is read from the target (R44). -/
theorem sensed_m1 {s : State} (hpins : s.cfg.pins.WellFormed) (hinput : isOutput s (s.cfg.pins.pin .m1) = false) :
    sensed s .m1 = s.target.m1 := by
  have hwire : targetWire s (s.cfg.pins.pin .m1) = .drives (targetLevel s .m1) := by
    obtain ⟨_, _, _, hport⟩ := hpins
    have hport' : (s.cfg.pins.pin .m1).port = .dataHi := hport
    have hfind : targetSignals.find? (fun g => s.cfg.pins.pin g == s.cfg.pins.pin .m1) = some .m1 := by
      simp [targetSignals]
    unfold targetWire
    rw [hport']
    simp only [hfind]
  have hlevel : pinLevel s (s.cfg.pins.pin .m1) = levelOf s.cfg .m1 s.target.m1 := by
    unfold pinLevel
    rw [hinput, hwire]
    rfl
  unfold sensed
  rw [hlevel]
  cases s.target.m1 <;> simp [levelOf]

/-- The access `p` of M1, which reads, and a boundary at which nothing happens leave all that the next read of the same
kind depends on. -/
structure Still (p : Prim) (s t : State) : Prop where
  records : RecordsStand s t
  env : t.env = []
  dir : t.dir = s.dir
  cancel : t.cancel = s.cancel
  target : t.target = { s.target with edge := t.target.edge }
  flag : p = .iocFlag .m1 → t.ioc = s.ioc

theorem Still.trans {p : Prim} {s t u : State} (h : Still p s t) (k : Still p t u) : Still p s u where
  records := h.records.trans k.records
  env := k.env
  dir := k.dir.trans h.dir
  cancel := k.cancel.trans h.cancel
  target := by rw [k.target, h.target]
  flag e := (k.flag e).trans (h.flag e)

theorem still_boundary {s : State} (henv : s.env = []) (p : Prim) : Still p s (boundary s).1 := by
  rw [boundary_nil henv]
  exact ⟨(spendEdge_kept s).records, henv, rfl, rfl, rfl, fun _ => rfl⟩

theorem still_perform {p : Prim} (hread : reads p = true) {s : State} (henv : s.env = []) : Still p s (perform p s) := by
  have hrecords := (perform_kept p s).records
  cases p with
  | samplePort | sample => exact ⟨hrecords, henv, rfl, rfl, rfl, nofun⟩
  | iocFlag => exact ⟨hrecords, henv, rfl, rfl, rfl, fun _ => rfl⟩
  | _ => cases hread

theorem still_failedSample {p : Prim} (hread : reads p = true) {s : State} (henv : s.env = []) :
    Still p s (failedSample p s) := by
  have hb := still_boundary henv p
  have h := hb.trans (still_perform hread hb.env)
  exact ⟨failedSample_records p s, h.env, h.dir, h.cancel, h.target, h.flag⟩

theorem still_afterPrim {p : Prim} (hread : reads p = true) {s : State} (henv : s.env = []) (k : Nat) :
    Still p s (afterPrim k p s) := by
  have hb := still_boundary henv p
  have h := hb.trans (still_perform hread hb.env)
  exact ⟨afterPrim_records k p s, h.env, h.dir, h.cancel, h.target, h.flag⟩

/-- What is said of the flag alone may be left out. -/
theorem Still.anyFlag {p : Prim} {s t : State} (h : Still p s t) : Still (.sample .m1) s t :=
  ⟨h.records, h.env, h.dir, h.cancel, h.target, nofun⟩

theorem Still.targetKept {p : Prim} {s t : State} (h : Still p s t) : TargetKept s t := by
  rw [TargetKept, h.target]
  exact ⟨rfl, rfl, rfl, rfl⟩

/-- Outside a scope, or with no cancellation pending, none is taken. -/
theorem untaken_of_nil {i : Instr} {k : Nat} {s : State} (h : scopeHandler i = none ∨ s.cancel = false)
    (hq : s.seq = .running i k) (henv : s.env = []) : Untaken s := by
  rcases h with hscope | hcancel
  · exact untaken_of_scopeless hscope hq
  · rw [Untaken, (still_boundary henv (.sample .m1)).cancel, hcancel, Bool.and_false]

/-- A poll of M1 or of its flag before a target that does nothing. -/
theorem holdsAt_still {i : Instr} {k n : Nat} {l : ProgLine} {p : Prim} {ready : State → Bool} {e : Event} {w : Wait}
    {c : Option Nat} {s x : State} {evs : List Event} {keeps : State → Prop} (hwf : i.WellFormed) (hidle : s.seq = .idle)
    (hallowed : allowed s i = true) (hscope : scopeHandler i = none ∨ x.cancel = false) (hread : reads p = true)
    (hl : PollLine l p ready w c) (hk : (programOf s.cfg i)[k]? = some l) (hlimit : s.cfg.pollLimit = none)
    (hreach : Reaches (programOf s.cfg i) n (beginOp i s) x) (hn : n ≤ (programOf s.cfg i).length)
    (hq : x.seq = .running i k) (hcfg : x.cfg = s.cfg) (henv : x.env = []) (htrace : x.trace = s.trace ++ evs)
    (hfails : ∀ y, Still p x y → ready y = false ∧ eventOf p y = e) (hkeeps : ∀ y, Still p x y → keeps y) :
    HoldsAt i k evs e keeps s := by
  have hone := still_failedSample hread henv
  have hunready {y : State} (hy : Still p x (boundary y).1) (hqy : y.seq = .running i k) (henvy : y.env = [])
      (hcancel : y.cancel = x.cancel) : Unready i k p ready e y :=
    ⟨hqy, henvy, untaken_of_nil (hscope.imp_right fun h => hcancel.trans h) hqy henvy, (hfails _ hy).1, (hfails _ hy).2⟩
  exact holdsAt hwf hidle hallowed hl hk hlimit hreach hn hcfg htrace
    (hunready (still_boundary henv p) hq henv rfl)
    (hunready (hone.trans (still_boundary hone.env p)) ((failedSample_seq p x).trans hq) hone.env hone.cancel)
    (hkeeps _ hone) (hkeeps _ (hone.trans (still_failedSample hread hone.env)))

/-- The flag stays clear while nothing but the flag is read (R144). -/
theorem flag_fails {s : State} (hflag : flagLatched s .m1 = false) {y : State} (hy : Still (.iocFlag .m1) s y) :
    flagLatched y .m1 = false ∧ eventOf (.iocFlag .m1) y = .flag .m1 false := by
  have h : flagLatched y .m1 = false := by
    unfold flagLatched
    rw [hy.flag rfl, hy.records.flags.1]
    exact hflag
  exact ⟨h, by rw [eventOf, h]⟩

/-- M1 is asserted, and the controller reads it. -/
structure M1Asserted (s : State) : Prop where
  pins : s.cfg.pins.WellFormed
  input : isOutput s (s.cfg.pins.pin .m1) = false
  asserted : s.target.m1 = true

theorem M1Asserted.still {p : Prim} {s t : State} (h : M1Asserted s) (k : Still p s t) : M1Asserted t := by
  have hcfg := k.records.flags.1
  refine ⟨by rw [hcfg]; exact h.pins, ?_, by rw [k.target]; exact h.asserted⟩
  rw [hcfg, isOutput_congr hcfg k.dir]
  exact h.input

theorem Good.m1Asserted {s t : State} (hs : Good s) (hm1 : s.target.m1 = true) (hcfg : t.cfg = s.cfg) (hdir : t.dir = s.dir)
    (htarget : t.target = s.target) : M1Asserted t := by
  refine ⟨by rw [hcfg]; exact hs.params.1, ?_, by rw [htarget]; exact hm1⟩
  rw [hcfg, isOutput_congr hcfg hdir]
  exact hs.roles.2 .m1 (by decide)

/-- A sample of M1 that should read de-asserted fails (R144). -/
theorem M1Asserted.fails {s : State} (h : M1Asserted s) :
    senses .m1 false s = false ∧ eventOf (.sample .m1) s = .sampleSig .m1 true := by
  have hsensed : sensed s .m1 = true := (sensed_m1 h.pins h.input).trans h.asserted
  exact ⟨by rw [senses, hsensed]; rfl, by rw [eventOf, hsensed]⟩

/-- The flag that is latched is found so, and the poll is over. -/
theorem reaches_flag {prog : List ProgLine} {i : Instr} {k : Nat} {pos : Pos} {s : State}
    (hl : prog[k]? = some ⟨pos, .pollFlag, none⟩) (hscope : scopeHandler i = none ∨ s.cancel = false)
    (hq : s.seq = .running i k) (henv : s.env = []) (hflag : flagLatched s .m1 = true) :
    Reaches prog 1 s (afterPrim k (.iocFlag .m1) s) ∧
      (afterPrim k (.iocFlag .m1) s).trace = s.trace ++ [.flag .m1 true] := by
  have hlatched : flagLatched (boundary s).1 .m1 = true := by
    rw [boundary_nil henv]
    exact hflag
  refine ⟨reaches_poll_ready (pollLine_flag pos) hq hl (untaken_of_nil hscope hq henv) (by rw [boundary_nil henv])
    hlatched, ?_⟩
  show (perform (.iocFlag .m1) (boundary s).1).trace = _
  rw [perform_trace, eventOf, hlatched, (boundary_kept s).trace]

/-- `AUTOSTEP` at its flag poll: the loop is entered and the time recorded (R146, R148). -/
def atFlagPoll (r : Quantity) (s : State) : State :=
  { beginOp (.autostep r) s with t0 := s.now, seq := .running (.autostep r) 2 }

theorem reaches_flagPoll {s : State} {r : Quantity} (harm : s.arm = .armed) :
    Reaches (programOf s.cfg (.autostep r)) 2 (beginOp (.autostep r) s) (atFlagPoll r s) := by
  obtain ⟨x, hx⟩ : ∃ x, x = jumpTo 1 (beginOp (.autostep r) s) := ⟨_, rfl⟩
  have hq : x.seq = .running (.autostep r) 1 := by rw [hx]; rfl
  have hentered : Reaches (programOf s.cfg (.autostep r)) 1 (beginOp (.autostep r) s) x := by
    refine .next (i := .autostep r) (k := 0) rfl ?_ hq Nat.zero_lt_one
    rw [tick_line (i := .autostep r) (k := 0) rfl rfl, hx]
    exact if_pos ((isArmed_iff s).mpr harm)
  have hstamped : Reaches (programOf s.cfg (.autostep r)) 1 x (atFlagPoll r s) := by
    refine .next (j := .autostep r) (m := 2) hq ?_ rfl (by decide)
    rw [tick_line hq rfl, hx]
    rfl
  exact hentered.trans hstamped

section
variable {s : State} (hgood : Good s) (hidle : s.seq = .idle) (harm : s.arm = .armed) (henv : s.env = [])
  (hlimit : s.cfg.pollLimit = none)
include hgood hidle harm henv hlimit

/-- `STEP_WAIT` and `AUTOSTEP` wait for the flag. -/
theorem flagWait_holds (hflag : flagLatched s .m1 = false) :
    HoldsAt .stepWait 0 [] (.flag .m1 false) (fun x => FlagsKept s x ∧ x.ioc = s.ioc ∧ TargetKept s x) s ∧
      ∀ r : Quantity, 0 < r → s.cancel = false →
        HoldsAt (.autostep r) 2 [] (.flag .m1 false)
          (fun x => x.arm = .armed ∧ x.fault = none ∧ x.ioc = s.ioc ∧ TargetKept s x) s := by
  refine ⟨?_, fun r hr hcancel => ?_⟩
  · exact holdsAt_still (x := beginOp .stepWait s) trivial hidle ((isArmed_iff s).mpr harm) (.inl rfl) rfl
      (pollLine_flag _) rfl hlimit .refl (Nat.zero_le _) rfl rfl henv (List.append_nil _).symm
      (fun y hy => flag_fails (s := beginOp .stepWait s) hflag hy)
      fun y hy => ⟨hy.records.flags, hy.flag rfl, hy.targetKept⟩
  · refine holdsAt_still (x := atFlagPoll r s) (Rat.num_pos.mpr hr) hidle rfl (.inr hcancel) rfl (pollLine_flag _) rfl hlimit
      (reaches_flagPoll harm) (Nat.le_add_left 2 _) rfl rfl henv (List.append_nil _).symm
      (fun y hy => flag_fails (s := atFlagPoll r s) hflag hy) fun y hy => ?_
    obtain ⟨_, _, _, harm', hfault, _⟩ := hy.records.flags
    exact ⟨harm'.trans harm, hfault.trans hgood.noFault, hy.flag rfl, hy.targetKept⟩

/-- `M1_RELEASE_WAIT` waits for M1. -/
theorem m1ReleaseWait_holds (hm1 : s.target.m1 = true) :
    HoldsAt .m1ReleaseWait 0 [] (.sampleSig .m1 true) (fun x => FlagsKept s x ∧ TargetKept s x) s := by
  have hlevel : M1Asserted (beginOp .m1ReleaseWait s) := hgood.m1Asserted hm1 rfl rfl rfl
  exact holdsAt_still (x := beginOp .m1ReleaseWait s) trivial hidle ((isArmed_iff s).mpr harm) (.inl rfl) rfl
    (pollLine_poll _ .m1 false .levelWait none) rfl hlimit .refl (Nat.zero_le _) rfl rfl henv (List.append_nil _).symm
    (fun y hy => (hlevel.still hy).fails) fun y hy => ⟨hy.records.flags, hy.targetKept⟩

/-- `STEP_WAIT` and `AUTOSTEP` wait for M1 once the flag is latched. -/
theorem levelWait_holds (hm1 : s.target.m1 = true) (hflag : flagLatched s .m1 = true) :
    HoldsAt .stepWait 1 [.flag .m1 true] (.sampleSig .m1 true) (fun x => FlagsKept s x ∧ TargetKept s x) s ∧
      ∀ r : Quantity, 0 < r → s.cancel = false →
        HoldsAt (.autostep r) 3 [.flag .m1 true] (.sampleSig .m1 true)
          (fun x => x.arm = .armed ∧ x.fault = none ∧ TargetKept s x) s := by
  refine ⟨?_, fun r hr hcancel => ?_⟩
  · obtain ⟨hreach, htrace⟩ := reaches_flag (prog := programOf s.cfg .stepWait) (i := .stepWait) (k := 0)
      (s := beginOp .stepWait s) rfl (.inl rfl) rfl henv hflag
    have hstill := (still_afterPrim (p := .iocFlag .m1) rfl (s := beginOp .stepWait s) henv 0).anyFlag
    have hlevel := (hgood.m1Asserted (t := beginOp .stepWait s) hm1 rfl rfl rfl).still hstill
    refine holdsAt_still trivial hidle ((isArmed_iff s).mpr harm) (.inl rfl) rfl
      (pollLine_poll _ .m1 false .levelWait none) rfl hlimit hreach (Nat.le_succ 1)
      (afterPrim_seq (i := .stepWait) (k := 0) (s := beginOp .stepWait s) rfl (.iocFlag .m1)) hstill.records.flags.1
      hstill.env htrace (fun y hy => (hlevel.still hy).fails) fun y hy => ?_
    have hkept := hstill.trans hy
    exact ⟨hkept.records.flags, hkept.targetKept⟩
  · obtain ⟨hreach, htrace⟩ := reaches_flag (prog := programOf s.cfg (.autostep r)) (i := .autostep r) (k := 2)
      (s := atFlagPoll r s) rfl (.inr hcancel) rfl henv hflag
    have hstill := (still_afterPrim (p := .iocFlag .m1) rfl (s := atFlagPoll r s) henv 2).anyFlag
    have hlevel := (hgood.m1Asserted (t := atFlagPoll r s) hm1 rfl rfl rfl).still hstill
    refine holdsAt_still (Rat.num_pos.mpr hr) hidle rfl (.inr (hstill.cancel.trans hcancel)) rfl
      (pollLine_poll _ .m1 false .levelWait none) rfl hlimit ((reaches_flagPoll harm).trans hreach) (Nat.le_add_left 3 _)
      (afterPrim_seq (i := .autostep r) (k := 2) (s := atFlagPoll r s) rfl (.iocFlag .m1)) hstill.records.flags.1
      hstill.env htrace (fun y hy => (hlevel.still hy).fails) fun y hy => ?_
    have hkept := hstill.trans hy
    obtain ⟨_, _, _, harm', hfault, _⟩ := hkept.records.flags
    exact ⟨harm'.trans harm, hfault.trans hgood.noFault, hkept.targetKept⟩

end

/-- Settles O23: each wait is a poll whose failed samples leave what it depends on as it was. -/
theorem unansweredWaitsHold : Obligations.UnansweredWaitsHold :=
  ⟨fun _ _ hgood hown hidle hbus henv hlimit hwf => takeBus_holds hgood hown hidle hbus henv hlimit hwf,
    fun _ _ hs henv hlimit => releaseBus_holds hs henv hlimit,
    fun _ hgood hidle harm henv hlimit => ⟨flagWait_holds hgood hidle harm henv hlimit,
      fun hm1 => ⟨m1ReleaseWait_holds hgood hidle harm henv hlimit hm1,
        levelWait_holds hgood hidle harm henv hlimit hm1⟩⟩⟩

end Sys2Proof.Machine
end

section
/-! The IO write cycle (R115, R49) at a target that is off the bus: the one window is open after its request strobe is
asserted, and the IO devices see one write. -/

namespace Sys2Proof.Machine

/-! ### Lists of primitives -/

theorem afterPrims_append (k : Nat) (ps qs : List Prim) (s : State) :
    afterPrims k (ps ++ qs) s = afterPrims (k + ps.length) qs (afterPrims k ps s) := by
  induction ps generalizing k s with
  | nil => rfl
  | cons p ps ih =>
    rw [List.cons_append, afterPrims, ih, List.length_cons, Nat.add_assoc, Nat.add_comm 1]
    rfl

theorem PrimsAt.left {prog : List ProgLine} {k : Nat} {ps qs : List Prim} (h : PrimsAt prog k (ps ++ qs)) :
    PrimsAt prog k ps := fun j p hj =>
  h j p (by rw [List.getElem?_append_left (List.getElem?_eq_some_iff.mp hj).1]; exact hj)

/-! ### The request strobes -/

/-- The latches of MREQ and IORQ are inactive: no window is open. -/
structure RequestsInactive (s : State) : Prop where
  mreq : latchAt s .mreq false
  iorq : latchAt s .iorq false

theorem RequestsInactive.shut {s : State} (h : RequestsInactive s) : Shut s := by
  have hm := asserts_of_latch h.mreq
  have hi := asserts_of_latch h.iorq
  constructor <;> simp [memWriteWindow, ioWriteWindow, ioReadWindow, hm, hi]

/-- A latch follows the primitive that the line carries out. -/
theorem latchAt_afterPrim {s : State} (hc : s.cfg.pins.WellFormed) {p : Prim} (hp : Programmed p) {g : Signal}
    (hg : g ≠ .clkout) {active : Bool} (h : latchAt s g active) (k : Nat) :
    latchAt (afterPrim k p s) g (tracked (some p) (.assert g) (.deassert g) active) := by
  have hb := boundary_kept s
  refine perform_latches (by rw [hb.cfg]; exact hc) hp g hg active ?_
  unfold latchAt
  rw [hb.cfg, hb.out]
  exact h

/-- The primitive asserts neither MREQ nor IORQ, and does not let the target back on the bus. -/
structure Unrequesting (p : Prim) : Prop extends Plain p where
  mreq : p ≠ .assert .mreq
  iorq : p ≠ .assert .iorq
  kept : p ≠ .deassert .busreq ∧ p ≠ .assert .reset

theorem tracked_false {p : Prim} {g : Signal} (h : p ≠ .assert g) :
    tracked (some p) (.assert g) (.deassert g) false = false := by simp [tracked, h]

theorem RequestsInactive.afterPrims {ps : List Prim} (hps : ∀ p ∈ ps, Unrequesting p) {s : State}
    (hc : s.cfg.pins.WellFormed) (h : RequestsInactive s) (k : Nat) :
    StaysShut k ps s ∧ RequestsInactive (afterPrims k ps s) := by
  induction ps generalizing k s with
  | nil => exact ⟨trivial, h⟩
  | cons p ps ih =>
    have hp := hps p (List.mem_cons_self ..)
    have hmreq := latchAt_afterPrim hc hp.programmed (by decide) h.mreq k
    have hiorq := latchAt_afterPrim hc hp.programmed (by decide) h.iorq k
    rw [tracked_false hp.mreq] at hmreq
    rw [tracked_false hp.iorq] at hiorq
    have hfirst : RequestsInactive (afterPrim k p s) := ⟨hmreq, hiorq⟩
    obtain ⟨hshut, hlast⟩ := ih (fun x hx => hps x (List.mem_cons_of_mem _ hx)) (by rwa [afterPrim_cfg]) hfirst (k + 1)
    exact ⟨⟨hfirst.shut, hshut⟩, hlast⟩

/-! ### What the IO devices see -/

/-- A register write after which the IO write window alone is open shows the IO devices one write (R49). -/
theorem react_ioWrite {old new : State} (hown : new.own = .acquired) (hm : memWriteWindow new = false)
    (hw : ioWriteWindow new = true) (hr : ioReadWindow new = false) (hreset : line new .reset = line old .reset)
    (hclken : line new .clken = line old .clken) (hclkout : clkoutHigh new = clkoutHigh old) :
    react old new = { ioAccess (.write (busAddr new) (portIn new .dataLo)) new with draws := new.draws + 3 } := by
  obtain ⟨u, hu⟩ : ∃ u, u = { ioAccess (.write (busAddr new) (portIn new .dataLo)) new with draws := new.draws + 3 } :=
    ⟨_, rfl⟩
  have hlines : SameLines new u := by rw [hu]; exact .of_registers rfl rfl rfl
  have hmem : memWriteReact old new = new := by simp [memWriteReact, acting_closed hm]
  have hwrite : ioWriteReact old new = u := by
    have hacts : acting ioWriteWindow old new = true := by simp [acting, hw, hown]
    have hheld : holdWrite u = u := by
      have hmu : memWriteWindow u = false := by
        unfold memWriteWindow at hm ⊢
        rw [hlines.asserts, hlines.asserts, hm]
      simp [holdWrite, hmu]
    rw [ioWriteReact, if_pos hacts, ← hu, hheld]
  have hread : ioReadReact old u = u := by
    have hru : ioReadWindow u = false := by
      unfold ioReadWindow at hr ⊢
      rw [hlines.asserts, hlines.asserts, hr]
    simp [ioReadReact, acting_closed hru]
  have hresets : resetReact old u = u := by
    have hsame : asserts u .reset = asserts old .reset := by rw [hlines.asserts, asserts, hreset, asserts]
    unfold resetReact
    rw [hsame]
    cases asserts old .reset <;> simp
  have hclock : clockReact old u = u := by
    unfold clockReact
    rw [hlines.line, hlines.clkout, hclken, hclkout]
    simp
  rw [react, hmem, hwrite, hread, hresets, hclock, ← hu]

/-- The controller has `a` and `d` on the bus, WR asserted and no other strobe. -/
structure WriteReady (a : Addr) (d : Byte) (s : State) : Prop where
  pins : s.cfg.pins.WellFormed
  own : s.own = .acquired
  bus : s.target.ownsBus = false
  addr : addrDriven s
  data : dataDriven s
  strobes : strobesDriven s
  wr : latchAt s .wr true
  mreq : latchAt s .mreq false
  rd : latchAt s .rd false
  addrHi : s.out.addrHi = rev8 (hiByte a)
  addrLo : s.out.addrLo = rev8 (loByte a)
  dataLo : s.out.dataLo = d

section
variable {a : Addr} {d : Byte} {s : State}

theorem WriteReady.busAddr (h : WriteReady a d s) : busAddr s = a := by
  rw [busAddr_driven h.addr h.bus, h.addrHi, h.addrLo, rev8_rev8, rev8_rev8, hiByte_append_loByte]

/-- With no device answering the wires of DATA show the latch (R17, R20). -/
theorem WriteReady.portIn (h : WriteReady a d s) : portIn s .dataLo = d := by
  have hrd := asserts_of_latch h.rd
  have hreleased (i : Fin 8) : targetWire s ⟨.dataLo, i⟩ = .released := by
    simp [targetWire, h.bus, deviceMayDrive, ioReadWindow, memReadWindow, memoryDrives, hrd]
  have hlevel (i : Fin 8) : pinLevel s ⟨.dataLo, i⟩ = bitAt s.out.dataLo i := by
    have hout : isOutput s ⟨.dataLo, i⟩ = true := isOutput_of_allPins (q := ⟨.dataLo, i⟩) h.data
    simp [pinLevel, hout, hreleased, getPin, Ports.get]
  rw [Machine.portIn, funext hlevel, byteOfBits_bitAt, h.dataLo]

theorem WriteReady.windows (h : WriteReady a d s) (hiorq : latchAt s .iorq true) :
    memWriteWindow s = false ∧ ioWriteWindow s = true ∧ ioReadWindow s = false := by
  have hasserted {g : Signal} (hg : g ∈ Machine.strobes) (hl : latchAt s g true) : asserts s g = true :=
    asserts_iff.mpr (line_of_latch (h.strobes g hg) hl)
  simp [memWriteWindow, ioWriteWindow, ioReadWindow, asserts_of_latch h.mreq, asserts_of_latch h.rd,
    hasserted (by decide) hiorq, hasserted (by decide) h.wr]

/-- A strobe's latch bit stands in no bus port (R13). -/
theorem WriteReady.setPin (h : WriteReady a d s) (l : Bool) :
    WriteReady a d { s with out := setPin s.out (s.cfg.pins.pin .iorq) l } := by
  have hother {g : Signal} (hg : g ≠ .iorq) {active : Bool} (hl : latchAt s g active) :
      latchAt { s with out := Machine.setPin s.out (s.cfg.pins.pin .iorq) l } g active :=
    (getPin_setPin_other _ _ (PinMap.WellFormed.pin_ne h.pins hg)).trans hl
  have hport {q : Port} (hq : BusPort q) : q ≠ (s.cfg.pins.pin .iorq).port :=
    fun e => not_busPort h.pins .iorq (e ▸ hq)
  exact {
    h with
    wr := hother (by decide) h.wr
    mreq := hother (by decide) h.mreq
    rd := hother (by decide) h.rd
    addrHi := (get_setPin_other s.out l (hport (q := .addrHi) (by simp [BusPort]))).trans h.addrHi
    addrLo := (get_setPin_other s.out l (hport (q := .addrLo) (by simp [BusPort]))).trans h.addrLo
    dataLo := (get_setPin_other s.out l (hport (q := .dataLo) (by simp [BusPort]))).trans h.dataLo }

/-- THE IO DEVICES SEE THE WRITE when IORQ is asserted (R49, R115). -/
theorem WriteReady.write (h : WriteReady a d s) :
    (perform (.assert .iorq) s).target = (ioAccess (.write a d) s).target := by
  obtain ⟨u, hu⟩ : ∃ u, u = storeWrite (.outPin (s.cfg.pins.pin .iorq) (assertedLevel s.cfg .iorq)) s := ⟨_, rfl⟩
  have hready : WriteReady a d u := by rw [hu]; exact h.setPin _
  have hiorq : latchAt u .iorq true := by rw [hu]; exact getPin_setPin_same _ _ _
  obtain ⟨hm, hw, hr⟩ := hready.windows hiorq
  have hlines : SameLines u (perform (.assert .iorq) s) := by
    refine .of_registers ?_ ?_ ?_
    · rw [(perform_kept _ s).cfg, hu]; rfl
    · rw [perform_dir, hu]; exact applyWrite_dir ..
    · rw [perform_out, hu]; exact applyWrite_out ..
  obtain ⟨hreset, hclken, hclkout⟩ := perform_steady h.pins (p := .assert .iorq) trivial rfl
  have hreact := react_ioWrite (old := s) hready.own hm hw hr ((hlines.line _).symm.trans hreset)
    ((hlines.line _).symm.trans hclken) (hlines.clkout.symm.trans hclkout)
  rw [hready.busAddr, hready.portIn] at hreact
  have hmade : (perform (.assert .iorq) s).target = (react s u).target := by rw [hu]; rfl
  rw [hmade, hreact, hu]
  rfl

end

/-! ### The cycle -/

/-- The lines of an IO write before its request (R115). -/
def writeSetup (c : Params) (a : Addr) (d : Byte) : List Prim :=
  addressLatches c a ++ [.drive .data, .latch .dataLo d, .assert .wr]

/-- The lines of an IO write after its request (R115). -/
def writeEnd : List Prim := [.deassert .iorq, .deassert .wr, .float .data]

/-- The lines of an IO write (R115). -/
def ioWritePrims (c : Params) (a : Addr) (d : Byte) : List Prim := writeSetup c a d ++ .assert .iorq :: writeEnd

/-- The write at the target's side: its devices see it, and the bank register is set by the write to its port (R49, R50). -/
def written (c : Params) (a : Addr) (d : Byte) (g : Target) : Target :=
  { g with io := g.io ++ [.write a d], bank := if a = c.bankSelectPort then d else g.bank }

section
variable (c : Params) (a : Addr) (d : Byte)

theorem writeSetup_length : (writeSetup c a d).length = 5 := by
  rw [writeSetup, List.length_append, addressLatches_length]
  rfl

theorem writeSetup_unrequesting : ∀ p ∈ writeSetup c a d, Unrequesting p := by
  intro p hp
  rcases List.mem_append.mp hp with hp | hp
  · obtain ⟨q, v, rfl, hq⟩ := addressLatches_latchBus c a p hp
    exact ⟨⟨hq, rfl, rfl, rfl⟩, by simp, by simp, by simp⟩
  · simp only [List.mem_cons, List.not_mem_nil, or_false] at hp
    rcases hp with rfl | rfl | rfl
    · exact ⟨⟨trivial, rfl, rfl, rfl⟩, by simp, by simp, by simp⟩
    · exact ⟨⟨.inr (.inr rfl), rfl, rfl, rfl⟩, by simp, by simp, by simp⟩
    · exact ⟨⟨trivial, rfl, rfl, rfl⟩, by simp, by simp, by simp⟩

theorem writeEnd_unrequesting : ∀ p ∈ writeEnd, Unrequesting p := by
  intro p hp
  simp only [writeEnd, List.mem_cons, List.not_mem_nil, or_false] at hp
  rcases hp with rfl | rfl | rfl <;> exact ⟨⟨trivial, rfl, rfl, rfl⟩, by simp, by simp, by simp⟩

theorem ioWritePrims_plain : ∀ p ∈ ioWritePrims c a d, Plain p := by
  intro p hp
  rcases List.mem_append.mp hp with hp | hp
  · exact (writeSetup_unrequesting c a d p hp).toPlain
  · rcases List.mem_cons.mp hp with rfl | hp
    · exact ⟨trivial, rfl, rfl, rfl⟩
    · exact (writeEnd_unrequesting p hp).toPlain

theorem writeSetup_out (r : Ports) :
    (writeSetup c a d).foldl (fun r p => latchesAfter c p r) r =
      setPin (latchedData r a d) (c.pins.pin .wr) (assertedLevel c .wr) := by
  rw [writeSetup, List.foldl_append, addressLatches_out]
  rfl

/-- A whole cycle leaves its address and its byte in the latches, and the strobes as they were (R111). -/
theorem ioWritePrims_out {c : Params} (hc : c.pins.WellFormed) (r : Ports)
    (hwr : getPin r (c.pins.pin .wr) = levelOf c .wr false)
    (hiorq : getPin r (c.pins.pin .iorq) = levelOf c .iorq false) :
    (ioWritePrims c a d).foldl (fun r p => latchesAfter c p r) r = latchedData r a d := by
  have hbus {g : Signal} (h : getPin r (c.pins.pin g) = levelOf c g false) :
      getPin (latchedData r a d) (c.pins.pin g) = levelOf c g false := by
    rw [← h]
    have hset : latchedData r a d =
      ((r.set .addrHi (rev8 (hiByte a))).set .addrLo (rev8 (loByte a))).set .dataLo d := rfl
    rw [hset, getPin_set_busPort hc (.inr (.inr rfl)), getPin_set_busPort hc (.inr (.inl rfl)),
      getPin_set_busPort hc (.inl rfl)]
  rw [ioWritePrims, List.foldl_append, writeSetup_out]
  simp only [writeEnd, List.foldl_cons, List.foldl_nil, latchesAfter, setPin_setPin_same]
  rw [setPin_eq_self (q := c.pins.pin .iorq), setPin_setPin_same, setPin_eq_self]
  · exact hbus hwr
  · rw [getPin_setPin_other _ _ (PinMap.WellFormed.pin_ne hc (by decide))]
    exact hbus hiorq

theorem ioWritePrims_events (s : State) :
    ((ioWritePrims c a d).map fun p => eventOf p s) = writeEvents c .iorq a d := by
  simp only [ioWritePrims, writeSetup, writeEnd, writeEvents, List.map_append, addressLatches_events]
  simp [eventOf]

end

/-- With the bus held and the cycle at its request, all stands ready for the write (R115, R117). -/
theorem Good.writeReady {i : Instr} {k : Nat} {a : Addr} {d : Byte} {s : State} (hs : Good s) (hown : s.own = .acquired)
    (hq : s.seq = .running i k) (hplace : writeAt (.running i k) = some 5) {r : Ports}
    (hout : s.out = Machine.setPin (latchedData r a d) (s.cfg.pins.pin .wr) (assertedLevel s.cfg .wr)) :
    WriteReady a d s := by
  obtain ⟨_, haddr, hstrobes, hbus⟩ := hs.busHeld hown
  obtain ⟨_, _, hdata⟩ := hs.floating
  have hdrive : driveData s.seq = true := by rw [hq, driveData, hplace]; rfl
  rw [if_pos hdrive] at hdata
  have hplaced := hs.strobesAsPlaced hown
  have hport {q : Port} (hp : BusPort q) : q ≠ (s.cfg.pins.pin .wr).port :=
    fun e => not_busPort hs.params.1 .wr (e ▸ hp)
  have hactive (g : Signal) (active : Bool) (hg : g ∈ strobes) (h : activeStrobe s.seq g = active) :
      latchAt s g active := by
    rw [← h]
    exact hplaced g hg
  exact {
    pins := hs.params.1
    own := hown
    bus := hbus
    addr := haddr
    data := hdata
    strobes := hstrobes
    wr := hactive .wr true (by decide) (by simp [hq, activeStrobe, hplace])
    mreq := hactive .mreq false (by decide) (by simp [hq, activeStrobe, hplace])
    rd := hactive .rd false (by decide) (by simp [hq, activeStrobe, hplace])
    addrHi := by
      rw [hout]
      exact get_setPin_other (p := .addrHi) (latchedData r a d) _ (hport (.inl rfl))
    addrLo := by
      rw [hout]
      exact get_setPin_other (p := .addrLo) (latchedData r a d) _ (hport (.inr (.inl rfl)))
    dataLo := by
      rw [hout]
      exact get_setPin_other (p := .dataLo) (latchedData r a d) _ (hport (.inr (.inr rfl))) }

/-- The environment of a target off the bus leaves the cycle ready. -/
theorem WriteReady.world {a : Addr} {d : Byte} {s t : State} (h : WriteReady a d s) (hw : WorldOnly s t) :
    WriteReady a d t := by
  have hlatch {g : Signal} {active : Bool} (hl : latchAt s g active) : latchAt t g active := by
    unfold latchAt
    rw [hw.cfg, hw.out]
    exact hl
  exact {
    pins := by rw [hw.cfg]; exact h.pins
    own := hw.own.trans h.own
    bus := by rw [hw.target]; exact h.bus
    addr := by rw [addrDriven, hw.dir, hw.cfg]; exact h.addr
    data := by rw [dataDriven, hw.dir, hw.cfg]; exact h.data
    strobes := fun g hg => by
      rw [hw.cfg, isOutput_congr hw.cfg hw.dir]
      exact h.strobes g hg
    wr := hlatch h.wr
    mreq := hlatch h.mreq
    rd := hlatch h.rd
    addrHi := by rw [hw.out]; exact h.addrHi
    addrLo := by rw [hw.out]; exact h.addrLo
    dataLo := by rw [hw.out]; exact h.dataLo }

/-- THE WRITE CYCLE AT THE TARGET: its devices see one write, and nothing else of it changes (R115). -/
theorem afterPrims_ioWrite {i : Instr} {k : Nat} {a : Addr} {d : Byte} {s : State} (hs : Good s) (hown : s.own = .acquired)
    (hq : s.seq = .running i k) (hprog : PrimsAt (programOf s.cfg i) k (ioWritePrims s.cfg a d))
    (hplace : writeAt (.running i (k + 5)) = some 5) (hoff : OffBus s) (hinactive : RequestsInactive s) :
    Calm { s with target := written s.cfg a d s.target } (afterPrims k (ioWritePrims s.cfg a d) s) := by
  have hpins := hs.params.1
  obtain ⟨u, hu⟩ : ∃ u, u = afterPrims k (writeSetup s.cfg a d) s := ⟨_, rfl⟩
  obtain ⟨v, hv⟩ : ∃ v, v = afterPrim (k + 5) (.assert .iorq) u := ⟨_, rfl⟩
  have hlast : afterPrims k (ioWritePrims s.cfg a d) s = afterPrims (k + 6) writeEnd v := by
    rw [ioWritePrims, afterPrims_append, writeSetup_length, ← hu, hv]
    rfl
  have hsetup := writeSetup_unrequesting s.cfg a d
  obtain ⟨hshut, hinactiveu⟩ := hinactive.afterPrims hsetup hpins k
  have hcalm := afterPrims_calm (fun p hp => (hsetup p hp).toPlain) hpins (.inr ⟨hoff, fun p hp => (hsetup p hp).kept⟩)
    hshut
  have hoffu := hoff.afterPrims hpins (fun p hp => ⟨(hsetup p hp).programmed, (hsetup p hp).kept⟩) k
  have hgood := (hs.afterPrims hq hprog.left).1
  have hqu := afterPrims_seq hq (writeSetup s.cfg a d)
  have houtu := afterPrims_out k (writeSetup s.cfg a d) s
  have hrecords := afterPrims_records k (writeSetup s.cfg a d) s
  rw [writeSetup_out] at houtu
  rw [writeSetup_length] at hqu
  rw [← hu] at hcalm hinactiveu hoffu hgood hqu houtu hrecords
  obtain ⟨hcfgu, hownu, _⟩ := hrecords.flags
  have hworld := boundary_offBus hoffu
  have hready : WriteReady a d (boundary u).1 :=
    (hgood.writeReady (hownu.trans hown) hqu hplace (r := s.out) (by rw [hcfgu]; exact houtu)).world hworld
  have htargetv : v.target = written (boundary u).1.cfg a d (boundary u).1.target := by
    rw [hv]
    exact hready.write
  have hcalmv : Calm { s with target := written s.cfg a d s.target } v := by
    refine ⟨?_, ?_⟩
    · rw [htargetv, hworld.target, hcalm.target, hworld.cfg, hcfgu]
      rfl
    · rw [hv]
      exact (perform_ioc_unread (p := .assert .iorq) rfl rfl _).trans (hworld.ioc.trans hcalm.ioc)
  have hpinsu : u.cfg.pins.WellFormed := by rw [hcfgu]; exact hpins
  have hpinsv : v.cfg.pins.WellFormed := by rw [hv, afterPrim_cfg]; exact hpinsu
  have hoffv : OffBus v := by
    rw [hv]
    exact hoffu.afterPrim (p := .assert .iorq) hpinsu trivial (by simp) (by simp) _
  have hmreqv : latchAt v .mreq false := by
    rw [hv]
    exact latchAt_afterPrim (p := .assert .iorq) hpinsu trivial (by decide) hinactiveu.mreq _
  have hdone : RequestsInactive (afterPrim (k + 6) (.deassert .iorq) v) := by
    obtain ⟨active, hactive⟩ := exists_latchAt v .iorq
    refine ⟨latchAt_afterPrim (p := .deassert .iorq) hpinsv trivial (by decide) hmreqv _, ?_⟩
    have h := latchAt_afterPrim (p := .deassert .iorq) hpinsv trivial (by decide) hactive (k + 6)
    rwa [show tracked (some (.deassert .iorq)) (.assert .iorq) (.deassert .iorq) active = false by simp [tracked]] at h
  have hend := writeEnd_unrequesting
  obtain ⟨hshutEnd, _⟩ := hdone.afterPrims (ps := [.deassert .wr, .float .data])
    (fun p hp => hend p (List.mem_cons_of_mem _ hp)) (by rw [afterPrim_cfg]; exact hpinsv) (k + 7)
  rw [hlast]
  exact hcalmv.trans (afterPrims_calm (fun p hp => (hend p hp).toPlain) hpinsv
    (.inr ⟨hoffv, fun p hp => (hend p hp).kept⟩) ⟨hdone.shut, hshutEnd⟩)

end Sys2Proof.Machine
end

section
/-! `TAKE_BUS` whose poll succeeds (R91 to R94, R101): its set-up and bank step, before a target that has floated its bus. -/

namespace Sys2Proof.Machine

/-! ### Step 3 and step 4 -/

/-- The primitives of step 3 of `TAKE_BUS` (R91). -/
def setupPrims : List Prim :=
  [.drive .addr, .drive .strobes, .deassert .mreq, .deassert .wr, .deassert .rd, .deassert .iorq]

theorem setupPrims_unrequesting : ∀ p ∈ setupPrims, Unrequesting p := by
  intro p hp
  simp only [setupPrims, List.mem_cons, List.not_mem_nil, or_false] at hp
  rcases hp with rfl | rfl | rfl | rfl | rfl | rfl <;>
    exact ⟨⟨trivial, rfl, rfl, rfl⟩, by simp, by simp, by simp⟩

theorem takeFor_setup (c : Params) (bank : Option Nat) :
    PrimsAt (programOf c (takeFor bank)) 2 setupPrims ∧
      (programOf c (takeFor bank))[8]? = some (ln .takeBus 4 0 (.own .acquired)) := by
  cases bank <;>
    exact ⟨.cons rfl (.cons rfl (.cons rfl (.cons rfl (.cons rfl (.cons rfl .nil))))), rfl⟩

/-- Inactive strobe latches are written as they are. -/
theorem setupPrims_out {s : State} (h : strobeLatchesInactive s) :
    setupPrims.foldl (fun r p => latchesAfter s.cfg p r) s.out = s.out := by
  have hself (g : Signal) (hg : g ∈ strobes) : setPin s.out (s.cfg.pins.pin g) (!assertedLevel s.cfg g) = s.out :=
    setPin_eq_self (h g hg)
  simp only [setupPrims, List.foldl_cons, List.foldl_nil, latchesAfter]
  rw [hself .mreq (by decide), hself .wr (by decide), hself .rd (by decide), hself .iorq (by decide)]

/-- `t` is `s`, in which `TAKE_BUS(bank)` has been granted the bus, after steps 3 and 4. -/
structure SetUp (bank : Option Nat) (s t : State) : Prop where
  reaches : Reaches (programOf s.cfg (takeFor bank)) 7 s t
  seq : t.seq = .running (takeFor bank) 9
  records : RecordsStand (setOwn .acquired s) t
  env : t.env = s.env.drop 6
  out : t.out = s.out
  trace : t.trace = s.trace ++ setupEvents
  good : Good t
  offBus : OffBus t
  calm : Calm s t

theorem exists_setUp {bank : Option Nat} {s : State} (hs : Good s) (hsound : Sound s) (hq : s.seq = .running (takeFor bank) 2)
    (hoff : OffBus s) (hinactive : strobeLatchesInactive s) : ∃ t, SetUp bank s t := by
  obtain ⟨hprims, hown⟩ := takeFor_setup s.cfg bank
  have hpins := hs.params.1
  have hsetup := setupPrims_unrequesting
  obtain ⟨u, hu⟩ : ∃ u, u = afterPrims 2 setupPrims s := ⟨_, rfl⟩
  have hrequests : RequestsInactive s := ⟨hinactive .mreq (by decide), hinactive .iorq (by decide)⟩
  have hcalm := afterPrims_calm (fun p hp => (hsetup p hp).toPlain) hpins (.inr ⟨hoff, fun p hp => (hsetup p hp).kept⟩)
    (hrequests.afterPrims hsetup hpins 2).1
  have hreach : Reaches _ 6 s _ := reaches_prims (ps := setupPrims) (takeFor_scope bank) hq hprims hsound
  have hoffu := hoff.afterPrims hpins (fun p hp => ⟨(hsetup p hp).programmed, (hsetup p hp).kept⟩) 2
  have hgood := hs.afterPrims hq hprims
  have hqu : (afterPrims 2 setupPrims s).seq = .running (takeFor bank) 8 := afterPrims_seq hq setupPrims
  have hrecords := afterPrims_records 2 setupPrims s
  have henv : (afterPrims 2 setupPrims s).env = s.env.drop 6 := afterPrims_env 2 setupPrims s
  have hout := (afterPrims_out 2 setupPrims s).trans (setupPrims_out hinactive)
  have htrace : (afterPrims 2 setupPrims s).trace = s.trace ++ setupEvents :=
    afterPrims_trace (fun p hp => (hsetup p hp).unread) 2 s
  rw [← hu] at hcalm hreach hoffu hgood hqu hrecords henv hout htrace
  have hown' : (programOf u.cfg (takeFor bank))[8]? = some (ln .takeBus 4 0 (.own .acquired)) := by
    rw [hrecords.flags.1]
    exact hown
  exact ⟨afterOwn 8 .acquired u, {
    reaches := hreach.trans (reaches_own hqu hown)
    seq := afterOwn_seq hqu .acquired
    records := (hrecords.setOwn .acquired).trans (afterOwn_records 8 .acquired u)
    env := henv
    out := hout
    trace := htrace
    good := (hgood.1.afterOwn hqu hown').1
    offBus := ⟨hoffu.bus, hoffu.m1, hoffu.busreq, hoffu.reset⟩
    calm := ⟨hcalm.target, hcalm.ioc⟩ }⟩

/-! ### Step 5 -/

/-- The primitives of the bank step (R94). -/
def bankPrims (c : Params) (bank : Option Nat) : List Prim :=
  match bank with
  | some b => ioWritePrims c c.bankSelectPort (byteOf b)
  | none => []

theorem takeFor_bank (c : Params) (bank : Option Nat) :
    PrimsAt (programOf c (takeFor bank)) 9 (bankPrims c bank) ∧
      (programOf c (takeFor bank))[9 + (bankPrims c bank).length]? = some (ln .takeBus 5 0 .ret) ∧
      9 + (bankPrims c bank).length + 3 = (programOf c (takeFor bank)).length := by
  cases bank with
  | none => exact ⟨.nil, rfl, rfl⟩
  | some b =>
    simp only [bankPrims, ioWritePrims, writeSetup, takeFor, programOf, takeBusBankProgram, bankSelectProgram, writeCycle,
      latchLines, addressLatches]
    cases c.addrPortOrder <;>
      exact ⟨.cons rfl (.cons rfl (.cons rfl (.cons rfl (.cons rfl (.cons rfl (.cons rfl (.cons rfl (.cons rfl .nil)))))))),
        rfl, rfl⟩

theorem bankPrims_plain (c : Params) (bank : Option Nat) : ∀ p ∈ bankPrims c bank, Plain p := by
  cases bank with
  | none => simp [bankPrims]
  | some b => exact ioWritePrims_plain c c.bankSelectPort (byteOf b)

theorem bankPrims_events (c : Params) (bank : Option Nat) (s : State) :
    ((bankPrims c bank).map fun p => eventOf p s) = bankEvents c bank := by
  cases bank with
  | none => rfl
  | some b => exact ioWritePrims_events c c.bankSelectPort (byteOf b) s

theorem bankPrims_out {s : State} (hc : s.cfg.pins.WellFormed) (h : strobeLatchesInactive s) (bank : Option Nat) :
    (bankPrims s.cfg bank).foldl (fun r p => latchesAfter s.cfg p r) s.out = bankLatches s.cfg bank s.out := by
  cases bank with
  | none => rfl
  | some b => exact ioWritePrims_out _ _ hc s.out (h .wr (by decide)) (h .iorq (by decide))

/-- The target after the bank step: one IO write, and the bank (R50, R94). -/
def banked (c : Params) (bank : Option Nat) (g : Target) : Target :=
  { g with io := g.io ++ bankAccess c bank, bank := bankAfter bank g.bank }

theorem afterPrims_bank {bank : Option Nat} {s : State} (hs : Good s) (hown : s.own = .acquired)
    (hq : s.seq = .running (takeFor bank) 9) (hoff : OffBus s) (hinactive : strobeLatchesInactive s) :
    Calm { s with target := banked s.cfg bank s.target } (afterPrims 9 (bankPrims s.cfg bank) s) := by
  obtain ⟨hprims, _⟩ := takeFor_bank s.cfg bank
  cases bank with
  | none =>
    have hself : banked s.cfg none s.target = s.target := by simp [banked, bankAccess, bankAfter]
    rw [hself]
    exact .refl s
  | some b =>
    have hself : banked s.cfg (some b) s.target = written s.cfg s.cfg.bankSelectPort (byteOf b) s.target := by
      simp [banked, written, bankAccess, bankAfter]
    rw [hself]
    exact afterPrims_ioWrite hs hown hq hprims rfl hoff ⟨hinactive .mreq (by decide), hinactive .iorq (by decide)⟩

/-- `TAKE_BUS(bank)` has returned, with the bus, in `t`; it had been granted in `s`. -/
structure Taken (bank : Option Nat) (s t : State) : Prop where
  reaches : Reaches (programOf s.cfg (takeFor bank)) (8 + (bankPrims s.cfg bank).length) s t
  seq : t.seq = .idle
  polls : t.polls = 0
  records : RecordsStand (setOwn .acquired s) t
  out : t.out = bankLatches s.cfg bank s.out
  trace : t.trace = s.trace ++ setupEvents ++ bankEvents s.cfg bank
  calm : Calm { s with target := banked s.cfg bank s.target } t

theorem exists_taken {bank : Option Nat} {s : State} (hs : Good s) (hsound : Sound s) (hq : s.seq = .running (takeFor bank) 2)
    (hoff : OffBus s) (hinactive : strobeLatchesInactive s) : ∃ t, Taken bank s t := by
  obtain ⟨u, hu⟩ := exists_setUp hs hsound hq hoff hinactive
  have hcfg : u.cfg = s.cfg := hu.records.flags.1
  have hsoundu : Sound u := sound_of_drop hsound hcfg hu.env
  have hinactiveu : strobeLatchesInactive u := fun g hg => by
    rw [latchAt, hcfg, hu.out]
    exact hinactive g hg
  obtain ⟨hprims, hret, _⟩ := takeFor_bank s.cfg bank
  have hcalm := afterPrims_bank hu.good hu.records.flags.2.1 hu.seq hu.offBus hinactiveu
  have hout := (afterPrims_out 9 (bankPrims u.cfg bank) u).trans (bankPrims_out hu.good.params.1 hinactiveu bank)
  have htrace := (afterPrims_trace (fun p hp => (bankPrims_plain u.cfg bank p hp).unread) 9 u).trans
    (congrArg _ (bankPrims_events u.cfg bank u))
  have hrecords := afterPrims_records 9 (bankPrims u.cfg bank) u
  have hqv := afterPrims_seq hu.seq (bankPrims u.cfg bank)
  rw [hcfg] at hcalm hout htrace hrecords hqv
  obtain ⟨v, hv⟩ : ∃ v, v = afterPrims 9 (bankPrims s.cfg bank) u := ⟨_, rfl⟩
  have hreach := reaches_prims (ps := bankPrims s.cfg bank) (takeFor_scope bank) hu.seq hprims hsoundu
  rw [← hv] at hcalm hout htrace hrecords hqv hreach
  have hreturn : Reaches (programOf s.cfg (takeFor bank)) 1 v (opReturn v) := .ended hqv (tick_line hqv hret) rfl
  refine ⟨opReturn v, ?_, rfl, rfl, ⟨(hu.records.trans hrecords).flags, ?_, ?_⟩, ?_, ?_, ?_, ?_⟩
  · rw [show 8 + (bankPrims s.cfg bank).length = 7 + (bankPrims s.cfg bank).length + 1 by omega]
    exact (hu.reaches.trans hreach).trans hreturn
  · exact (hu.records.trans hrecords).raised
  · exact (hu.records.trans hrecords).result
  · rw [opReturn_out, hout, hu.out]
  · rw [opReturn_trace, htrace, hu.trace]
  · show (opReturn v).target = _
    rw [opReturn_target, hcalm.target, hu.calm.target]
    rfl
  · exact hcalm.ioc.trans hu.calm.ioc

/-! ### `TAKE_BUS` that returns -/

/-- A target that has floated its bus on request is off it (R45). -/
theorem Good.offBus {s : State} (hs : Good s) (hbus : s.target.ownsBus = false)
    (hreq : Machine.line s .busreq ≠ .deasserted) (hpulse : pulseAt s.seq = false) : OffBus s := by
  obtain ⟨hm1, hreset⟩ := hs.target
  refine ⟨hbus, hm1 hbus, hreq, ?_⟩
  rw [asserts, hreset, hpulse]
  rfl

/-- Between operations DATA floats (I-DATA). -/
theorem Good.dataFloats_of_idle {s : State} (hs : Good s) (hidle : s.seq = .idle) : Machine.dataFloats s := by
  obtain ⟨_, _, hdata⟩ := hs.floating
  rwa [hidle, if_neg (by decide)] at hdata

/-- `TAKE_BUS(bank)`, issued in `s`, leads to `t`; its last sample, the first to read de-asserted after `n` others, is made
with the target as `g`. -/
structure TakeReturns (bank : Option Nat) (n : Nat) (g : Target) (s t : State) : Prop where
  exec : exec (takeFor bank) s = .next t
  returned : Returned t
  records : RecordsStand (setOwn .acquired (beginOp (takeFor bank) s)) t
  setup : IocSetupKept s t
  latch : flagLatched t .m1 = false
  out : t.out = bankLatches s.cfg bank (withSignal s.cfg s.out .busreq true)
  trace : t.trace = s.trace ++ takeEvents n ++ bankEvents s.cfg bank
  target : t.target =
    { banked s.cfg bank g with int := t.target.int, clk := t.target.clk, edge := t.target.edge }
  good : Good t

theorem exists_takeReturns {bank : Option Nat} {n : Nat} {s w u : State} (hgood : Good s) (hidle : s.seq = .idle)
    (hsound : Sound s) (hwf : ∀ b ∈ bank, b < 256) (hlatches : strobeLatchesInactive s) (hw : Requested bank s w)
    (hreach : Reaches (programOf s.cfg (takeFor bank)) n w u) (hu : Sampled n w u) (hn : n ≤ s.env.length)
    (hon : 0 < n → w.target.ownsBus = true) (hok : (boundary u).2 = .ok)
    (hgrant : (boundary u).1.target.ownsBus = false) :
    ∃ t, TakeReturns bank n (boundary u).1.target s t := by
  obtain ⟨_, hpoll, _⟩ := takeFor_lines s.cfg bank
  obtain ⟨_, _, hlength⟩ := takeFor_bank s.cfg bank
  have hcfg : u.cfg = s.cfg := hu.records.flags.1.trans hw.records.flags.1
  have hq : u.seq = .running (takeFor bank) 1 := hu.seq.trans hw.seq
  have hready : senses .busack false (boundary u).1 = true := by
    rw [senses, hu.good.1.boundary.1.sensed_busack, hgrant]
    rfl
  have hlast := answered hu.good.1 hgrant 1
  have hgoodx := (hu.good.1.afterPoll hq (by rw [hcfg]; exact hpoll) fun _ => hgrant).1
  have hqx := afterPrim_seq hq (.sample .busack)
  have hsample := reaches_poll_ready (pollLine_poll _ .busack false .ackWait _) hq hpoll
    (untaken_of_scopeless (takeFor_scope bank) hq) hok hready
  obtain ⟨x, hx⟩ : ∃ x, x = afterPrim 1 (.sample .busack) u := ⟨_, rfl⟩
  rw [← hx] at hlast hgoodx hqx hsample
  have hrecords := (hw.records.trans hu.records).trans hlast.records
  have hcfgx : x.cfg = s.cfg := hrecords.flags.1
  have hout : x.out = withSignal s.cfg s.out .busreq true := (hlast.out.trans hu.out).trans hw.out
  have hsoundx : Sound x := sound_of_drop hsound hcfgx (n := 1 + (n + 1))
    (by rw [hlast.env, hu.env, hw.env, ← List.drop_one, List.drop_drop, List.drop_drop])
  have hreq : line x .busreq = .asserted :=
    (line_congr (s := w) (hlast.records.flags.1.trans hu.records.flags.1) (hlast.dir.trans hu.dir)
      (hlast.out.trans hu.out) .busreq).trans hw.line
  have hbusx : x.target.ownsBus = false := by rw [hlast.target]; exact hgrant
  have hoff : OffBus x := hgoodx.offBus hbusx (by rw [hreq]; exact nofun) (by rw [hqx]; cases bank <;> rfl)
  have hlatchesx : strobeLatchesInactive x := fun g hg => by
    have hne : g ≠ .busreq := by rintro rfl; revert hg; decide
    rw [latchAt, hcfgx, hout, withSignal, getPin_setPin_other _ _ (PinMap.WellFormed.pin_ne hgood.params.1 hne)]
    exact hlatches g hg
  obtain ⟨t, ht⟩ := exists_taken hgoodx hsoundx hqx hoff hlatchesx
  have htail := ht.reaches
  rw [hcfgx] at htail
  have hexec : exec (takeFor bank) s = .next t :=
    exec_of_reaches (takeFor_wellFormed hwf) hidle (takeFor_allowed bank s)
      (((hw.reaches.trans hreach).trans hsample).trans htail) (by omega) ht.seq
  have hfinal := (hrecords.setOwn .acquired).trans ht.records
  obtain ⟨_, _, _, _, hfault, hkilled, _⟩ := hfinal.flags
  obtain ⟨hen, hdflt, hcmp⟩ := hw.setup
  obtain ⟨hen', hdflt', hcmp'⟩ := hu.setup
  obtain ⟨hen'', hdflt'', hcmp''⟩ := hlast.setup
  have hioc : t.ioc = x.ioc := ht.calm.ioc
  have hevents : List.replicate n (Event.sampleSig .busack w.target.ownsBus) =
      List.replicate n (Event.sampleSig .busack true) := by
    rcases Nat.eq_zero_or_pos n with rfl | hpos
    · rfl
    · rw [hon hpos]
  refine ⟨t, {
    exec := hexec
    returned := ⟨ht.seq, hfinal.raised, ht.polls⟩
    records := hfinal
    setup := ?_
    latch := ?_
    out := by rw [ht.out, hcfgx, hout]
    trace := ?_
    target := ?_
    good := (hgood.exec hexec (hfault.trans hgood.noFault) (hkilled.trans hgood.alive)).1 }⟩
  · rw [IocSetupKept, hioc]
    exact ⟨hen''.trans (hen'.trans hen), hdflt''.trans (hdflt'.trans hdflt), hcmp''.trans (hcmp'.trans hcmp)⟩
  · rw [flagLatched, hioc, ht.records.flags.1]
    exact hlast.latch
  · rw [ht.trace, hlast.trace, hu.trace, hw.trace, hevents, hcfgx, takeEvents]
    simp only [List.append_assoc]
  · have htarget := ht.calm.target
    rw [hlast.target, hcfgx] at htarget
    exact htarget

/-- Settles O21: the poll ends with the grant, and the lines after it run before a target that is off the bus. -/
theorem takeBusCompletes : Obligations.TakeBusCompletes := by
  intro s bank n acts rest hgood hown hidle hbus hacts hfree hlatches hsound henv hlimit hwf
  obtain ⟨w, hw⟩ := exists_requested (bank := bank) hgood hidle hsound
  have hcalm := hw.calm (.inl (idleFor_of_replicate henv (Nat.le_add_left 1 n)))
  have hcfg : w.cfg = s.cfg := hw.records.flags.1
  have hbusw : w.target.ownsBus = true := by rw [hcalm.target]; exact hbus
  have henvw : w.env = List.replicate n idleSlot ++ ⟨acts, .ok⟩ :: rest := by
    rw [hw.env, henv, List.replicate_succ]
    rfl
  obtain ⟨_, hpoll, _⟩ := takeFor_lines s.cfg bank
  obtain ⟨u, hreach, hu⟩ := reaches_failed (takeFor_scope bank) hpoll hw.good hw.seq (idleFor_of_replicate henvw le_rfl)
    hbusw (fun m hm => by rw [hcfg] at hm; rw [hw.polls, Nat.zero_add]; exact hlimit m hm) (by rw [henvw]; simp)
  obtain ⟨_, _, _, harmw, _⟩ := hw.records.flags
  have hfreeu : halted u = false := hu.free fun h => hfree (by rwa [halted_congr hcfg harmw hcalm.ioc] at h)
  have hq : u.seq = .running (takeFor bank) 1 := hu.seq.trans hw.seq
  have hrun : canRun u = true :=
    hu.good.1.canRun (by rw [hq]; cases bank <;> rfl) (by rw [hq]; cases bank <;> rfl) hfreeu
  have hreq : line u .busreq = .asserted := (line_congr hu.records.flags.1 hu.dir hu.out .busreq).trans hw.line
  have htarget : u.target = { s.target with int := u.target.int, clk := u.target.clk, edge := u.target.edge } := by
    rw [hu.target, hcalm.target]
  have hanswer := boundary_grant (rest := rest) (by rw [hu.env, henvw, List.drop_left' (by simp)])
    (by rw [htarget]; exact hacts) (by rw [htarget]; exact hbus) hreq hfreeu hrun
  obtain ⟨t, ht⟩ := exists_takeReturns hgood hidle hsound hwf hlatches hw hreach hu (by rw [henv]; simp; omega)
    (fun _ => hbusw) (by rw [hanswer]) (by rw [hanswer])
  obtain ⟨hcfg', hown', hmode, harm, hfault, _⟩ := ht.records.flags
  obtain ⟨_, haddr, hstrobes, _⟩ := ht.good.busHeld hown'
  have hdata := ht.good.dataFloats_of_idle ht.returned.1
  have hfinal := ht.target
  rw [hanswer, htarget] at hfinal
  refine ⟨t, ht.exec, ht.returned, hown', hcfg', hmode, harm, hfault, ht.records.result, ht.setup, ht.latch, haddr, hstrobes,
    hdata, (groupsOnly_law.exec ht.exec).others, ?_, ?_, ?_, ?_, ?_, ?_, ht.out, ht.trace⟩ <;>
  rw [hfinal] <;> rfl

/-- Settles O22: BUSREQ is asserted and the bus granted already, and the groups are driven again as they are. -/
theorem takeBusAgain : Obligations.TakeBusAgain := by
  intro s bank ⟨hgood, hown, hidle, hsound⟩ hwf
  obtain ⟨hreq, haddr, hstrobes, hbus⟩ := hgood.busHeld hown
  have hoff : OffBus s := hgood.offBus hbus (by rw [hreq]; exact nofun) (by rw [hidle]; rfl)
  have hlatches : strobeLatchesInactive s := fun g hg => by
    have h := hgood.strobesAsPlaced hown g hg
    rwa [hidle] at h
  obtain ⟨w, hw⟩ := exists_requested (bank := bank) hgood hidle hsound
  have hcalm := hw.calm (.inr ⟨hoff, by simp⟩)
  have hworld := boundary_offBus (hw.offBus hoff)
  have hsoundw : Sound w := sound_of_drop hsound hw.records.flags.1 hw.env
  have htarget : (boundary w).1.target =
      { s.target with
        int := (boundary w).1.target.int, clk := (boundary w).1.target.clk, edge := (boundary w).1.target.edge } := by
    rw [hworld.target, hcalm.target]
  obtain ⟨t, ht⟩ := exists_takeReturns (n := 0) hgood hidle hsound hwf hlatches hw .refl (.refl hw.good) (Nat.zero_le _)
    nofun (boundary_sound hsoundw).1 (by rw [htarget]; exact hbus)
  obtain ⟨hcfg, hown', hrest⟩ := ht.records.flags
  have hheld : t.own = .acquired := hown'
  obtain ⟨_, haddr', hstrobes', _⟩ := ht.good.busHeld hheld
  have hdir : t.dir = s.dir := by
    refine (groupsOnly_law.exec ht.exec).dir_eq fun g => ?_
    cases g with
    | addr => exact ⟨true, haddr, haddr'⟩
    | data => exact ⟨false, hgood.dataFloats_of_idle hidle, ht.good.dataFloats_of_idle ht.returned.1⟩
    | strobes => exact ⟨true, hstrobes, hstrobes'⟩
  have hout : t.out = bankLatches s.cfg bank s.out := by
    rw [ht.out, withSignal_eq_self (hgood.roles.1 .busreq (by decide)) (active := true) hreq]
  have hfinal := ht.target
  rw [htarget] at hfinal
  refine ⟨t, ht.exec, ht.returned, ⟨hcfg, hown'.trans hown.symm, hrest⟩, ht.records.result, hdir, hout, ht.setup, ?_, ?_, ?_,
    ?_, ht.trace⟩
  · rw [TargetKept, hfinal]
    exact ⟨rfl, rfl, rfl, rfl⟩
  all_goals rw [hfinal]; rfl

end Sys2Proof.Machine
end

section
/-! Operations that keep the bus, line by line: while the bus is held the strobes stand as the position says, the target is
off the bus, and a register write reaches its stores only where the position leaves a window open. -/

namespace Sys2Proof.Machine

/-! ### What reaches the target's stores -/

/-- With every window shut the board's clock and reset may see a write, its stores do not. -/
theorem react_shut_stores {old new : State} (h : Shut new) : StoresKept new (react old new) := by
  have hmem : memWriteReact old new = new := by simp [memWriteReact, acting_closed h.memWrite]
  have hwrite : ioWriteReact old new = new := by simp [ioWriteReact, acting_closed h.ioWrite]
  have hread : ioReadReact old new = new := by simp [ioReadReact, acting_closed h.ioRead]
  have hresets (x : State) : StoresKept x (resetReact old x) := by
    unfold resetReact
    split
    · exact ⟨rfl, rfl, rfl⟩
    · split <;> exact ⟨rfl, rfl, rfl⟩
  have hclock (x : State) : StoresKept x (clockReact old x) := by
    unfold clockReact
    split <;> exact ⟨rfl, rfl, rfl⟩
  rw [react, hmem, hwrite, hread]
  obtain ⟨hm, hi, hb⟩ := hresets new
  obtain ⟨hm', hi', hb'⟩ := hclock (resetReact old new)
  exact ⟨hm'.trans hm, hi'.trans hi, hb'.trans hb⟩

/-- WHERE NO WINDOW IS OPEN after a primitive the target's stores see nothing of it. -/
theorem perform_shut_stores {s : State} (hc : s.cfg.pins.WellFormed) {p : Prim} (hp : Programmed p)
    (hshut : Shut (perform p s)) : StoresKept s (perform p s) := by
  have hsingle (q : Pin) (l : Bool) (hw : accessEffect p s = applyWrite s (.outPin q l)) :
      StoresKept s (perform p s) := by
    have hlines : SameLines (storeWrite (.outPin q l) s) (perform p s) := by
      refine .of_registers (perform_kept p s).cfg ?_ ?_
      · rw [perform_dir, hw, applyWrite_dir]
      · rw [perform_out, hw, applyWrite_out]
    have hstores := react_shut_stores (old := s) (hlines.shut hshut)
    rw [StoresKept, show (perform p s).target = (accessEffect p s).target from rfl, hw]
    exact hstores
  by_cases hs : steady p = true
  · rw [StoresKept, perform_unseen hc hp hs hshut]
    exact ⟨rfl, rfl, rfl⟩
  · cases p with
    | assert | deassert | clkOut => exact hsingle _ _ rfl
    | drive | float | latch | samplePort | sample | iocConfig | iocFlag => exact absurd rfl hs

/-! ### The bus is held -/

/-- The operation makes no reset pulse and does not give the bus up. -/
def keepsBus : Instr → Bool
  | .reset | .releaseBus _ => false
  | _ => true

/-- Operation `i` stands before its line `k`, with the bus held and the invariants of R30. -/
structure Holding (i : Instr) (k : Nat) (s : State) : Prop where
  good : Good s
  own : s.own = .acquired
  seq : s.seq = .running i k
  keeps : keepsBus i = true

/-- No window that the target's stores look at is open at the position (R47, R49). -/
def closedAt (q : Seq) : Bool :=
  !(activeStrobe q .mreq && activeStrobe q .wr) && !(activeStrobe q .iorq && activeStrobe q .wr) &&
    !(activeStrobe q .iorq && activeStrobe q .rd)

/-- A primitive of a bus cycle: a plain one that does not let the target back on the bus. -/
structure CyclePrim (p : Prim) : Prop extends Plain p where
  kept : p ≠ .deassert .busreq ∧ p ≠ .assert .reset

theorem Unrequesting.cyclePrim {p : Prim} (h : Unrequesting p) : CyclePrim p := ⟨h.toPlain, h.kept⟩

section
variable {i : Instr} {k : Nat} {s : State}

theorem Holding.begin (hs : Good s) (hidle : s.seq = .idle) (hown : s.own = .acquired) (ha : allowed s i = true)
    (hkeeps : keepsBus i = true) : Holding i 0 (beginOp i s) :=
  ⟨(hs.beginOp hidle ha).1, hown, rfl, hkeeps⟩

theorem Holding.boundary (h : Holding i k s) : Holding i k (boundary s).1 :=
  have hb := boundary_kept s
  ⟨h.good.boundary.1, hb.own.trans h.own, hb.seq.trans h.seq, h.keeps⟩

/-- A target that has granted the bus stays off it while BUSREQ is asserted and no pulse is made (R45). -/
theorem Holding.offBus (h : Holding i k s) : OffBus s := by
  obtain ⟨hreq, _, _, hbus⟩ := h.good.busHeld h.own
  have hkeeps := h.keeps
  refine h.good.offBus hbus (by rw [hreq]; exact nofun) ?_
  rw [h.seq]
  cases i with
  | reset | releaseBus => cases hkeeps
  | _ => rfl

theorem Holding.worldOnly (h : Holding i k s) : WorldOnly s (Machine.boundary s).1 := boundary_offBus h.offBus

/-- I-STROBE as lines: a strobe is asserted where the position has it active (R117). -/
theorem Holding.asserts (h : Holding i k s) {g : Signal} (hg : g ∈ strobes) :
    asserts s g = activeStrobe (.running i k) g := by
  obtain ⟨_, _, hstrobes, _⟩ := h.good.busHeld h.own
  have hline := line_of_latch (hstrobes g hg) (h.good.strobesAsPlaced h.own g hg)
  rw [h.seq] at hline
  rw [Machine.asserts, hline]
  cases activeStrobe (.running i k) g <;> rfl

/-- The windows at a position (R47 to R49). -/
theorem Holding.windows (h : Holding i k s) :
    memWriteWindow s = (activeStrobe (.running i k) .mreq && activeStrobe (.running i k) .wr) ∧
      memReadWindow s = (activeStrobe (.running i k) .mreq && activeStrobe (.running i k) .rd) ∧
      ioWriteWindow s = (activeStrobe (.running i k) .iorq && activeStrobe (.running i k) .wr) ∧
      ioReadWindow s = (activeStrobe (.running i k) .iorq && activeStrobe (.running i k) .rd) := by
  rw [memWriteWindow, memReadWindow, ioWriteWindow, ioReadWindow, h.asserts (g := .mreq) (by decide),
    h.asserts (g := .wr) (by decide), h.asserts (g := .rd) (by decide), h.asserts (g := .iorq) (by decide)]
  exact ⟨rfl, rfl, rfl, rfl⟩

theorem Holding.shut (h : Holding i k s) (hclosed : closedAt (.running i k) = true) : Shut s := by
  obtain ⟨hmem, _, hwrite, hread⟩ := h.windows
  simp only [closedAt, Bool.and_eq_true, Bool.not_eq_true'] at hclosed
  obtain ⟨⟨hm, hw⟩, hr⟩ := hclosed
  exact ⟨hmem.trans hm, hwrite.trans hw, hread.trans hr⟩

theorem Holding.afterPrim (h : Holding i k s) {p : Prim} {pos : Pos}
    (hl : (programOf s.cfg i)[k]? = some ⟨pos, .prim p, none⟩) : Holding i (k + 1) (afterPrim k p s) :=
  ⟨(h.good.afterPrim h.seq hl).1, (afterPrim_records k p s).flags.2.1.trans h.own, afterPrim_seq h.seq p, h.keeps⟩

theorem Holding.afterPrims (h : Holding i k s) {ps : List Prim} (hprog : PrimsAt (programOf s.cfg i) k ps) :
    Holding i (k + ps.length) (afterPrims k ps s) :=
  ⟨(h.good.afterPrims h.seq hprog).1, (afterPrims_records k ps s).flags.2.1.trans h.own, afterPrims_seq h.seq ps, h.keeps⟩

/-- Lines at whose ends every window is shut show the target nothing. -/
theorem Holding.calm (h : Holding i k s) {ps : List Prim} (hprog : PrimsAt (programOf s.cfg i) k ps)
    (hps : ∀ p ∈ ps, CyclePrim p)
    (hclosed : ((List.range ps.length).all fun j => closedAt (.running i (k + j + 1))) = true) :
    Calm s (Machine.afterPrims k ps s) := by
  refine afterPrims_calm (fun p hp => (hps p hp).toPlain) h.good.params.1 (.inr ⟨h.offBus, fun p hp => (hps p hp).kept⟩) ?_
  clear hps
  induction ps generalizing k s with
  | nil => trivial
  | cons p ps ih =>
    obtain ⟨pos, hl⟩ := hprog.head
    have hfirst := h.afterPrim hl
    rw [List.length_cons, List.range_succ_eq_map, List.all_cons, Bool.and_eq_true, List.all_map] at hclosed
    obtain ⟨hclosed, hrest⟩ := hclosed
    refine ⟨hfirst.shut hclosed, ih hfirst (by rw [afterPrim_cfg]; exact hprog.tail) ?_⟩
    rw [← hrest]
    refine congrArg (List.all _) (funext fun j => ?_)
    simp only [Function.comp]
    congr 2
    omega

end

end Sys2Proof.Machine
end

section
/-! Runs of a cycle's lines that nothing disturbs, or that end disturbed, and the sample of DATA in the middle of a read. -/

namespace Sys2Proof.Machine

/-! ### Runs that may end disturbed -/

/-- What disturbs the run after some boundaries disturbs it with them. -/
theorem Disturbed.before_drop {s s' t : State} {n : Nat} (h : Disturbed s' t) (hcfg : s'.cfg = s.cfg)
    (henv : s'.env = s.env.drop n) : Disturbed s t := by
  rcases h with ⟨hr, l, hl, m, hf⟩ | ⟨hk, used, l, hs', hf⟩
  · exact .inl ⟨hr, l, List.mem_of_mem_drop (henv ▸ hl), m, hcfg ▸ hf⟩
  · refine .inr ⟨hk, s.env.take n ++ used, l, ?_, hf⟩
    rw [List.append_assoc, ← hs', henv, List.take_append_drop]

/-- The first `n` ticks of a run from `s` lead to `t`, or the run ends disturbed. -/
structure Attains (prog : List ProgLine) (n : Nat) (s t : State) : Prop where
  run : ∀ m, runProg prog (m + n) s = runProg prog m t ∨ Disturbed s (runProg prog (m + n) s)
  cfg : t.cfg = s.cfg
  env : ∃ j, t.env = s.env.drop j

section
variable {prog : List ProgLine} {i : Instr} {k : Nat} {s t u : State}

theorem Attains.trans {n m : Nat} (h : Attains prog n s t) (h' : Attains prog m t u) : Attains prog (n + m) s u := by
  obtain ⟨j, hj⟩ := h.env
  obtain ⟨j', hj'⟩ := h'.env
  refine ⟨fun x => ?_, h'.cfg.trans h.cfg, j + j', by rw [hj', hj, List.drop_drop]⟩
  rw [Nat.add_comm n m, ← Nat.add_assoc]
  rcases h.run (x + m) with e | hd
  · rw [e]
    exact (h'.run x).imp_right fun hd => hd.before_drop h.cfg hj
  · exact .inr hd

theorem Attains.runOp_eq {n : Nat} (h : Attains prog n s t) (hn : n ≤ prog.length + 1) (hidle : t.seq = .idle) :
    runOp prog s = t ∨ Disturbed s (runOp prog s) := by
  obtain ⟨m, hm⟩ := Nat.exists_eq_add_of_le' (le_runFuel (prog := prog) (s := s) (hn.trans (Nat.le_add_right _ _)))
  unfold runOp
  rw [hm, ← runProg_idle (prog := prog) m hidle]
  exact h.run m

theorem Attains.prims (hscope : scopeHandler i = none) {ps : List Prim} (hq : s.seq = .running i k)
    (hprog : PrimsAt prog k ps) : Attains prog ps.length s (afterPrims k ps s) :=
  ⟨fun m => (runProg_prims_cases hscope m hq hprog).imp_left And.right, afterPrims_cfg k ps s, ps.length,
    afterPrims_env k ps s⟩

theorem Attains.returns (hq : s.seq = .running i k) (hl : prog[k]? = none) : Attains prog 1 s (opReturn s) :=
  ⟨fun m => .inl (Reaches.ended hq (tick_end hq hl) rfl m), rfl, 0, rfl⟩

end

/-- ALL THAT AN ACCESS CAN COME TO in an operation without a scope: it is made, or the operation ends disturbed. -/
theorem access_disturbed_or {i : Instr} {k : Nat} {s : State} (hscope : scopeHandler i = none)
    (hq : s.seq = .running i k) (p : Prim) (pos : Pos) (f : State → State) :
    access p pos f s = f (boundary s).1 ∨ (access p pos f s).seq = .idle ∧ Disturbed s (access p pos f s) := by
  have hq' : (boundary s).1.seq = .running i k := (boundary_kept s).seq.trans hq
  rcases access_cases p pos f s with ⟨hc, -⟩ | ⟨-, ⟨-, e⟩ | ⟨n, hf, e⟩ | ⟨hf, e⟩⟩
  · simp [hq', cancellable, hscope] at hc
  · exact .inl e
  all_goals
    obtain ⟨l, henv, hfate⟩ := fate_of_boundary (s := s) (by simp [hf])
    rw [e]
  · exact .inr ⟨(raiseFault_ends hscope ((abortEffect_kept p n _).seq.trans hq') _).1,
      .inl ⟨nofun, l, by rw [henv]; exact List.mem_cons_self .., n, hfate.symm.trans hf⟩⟩
  · exact .inr ⟨rfl, .inr ⟨rfl, [], l, henv, fateOf_eq_kill.mp (hfate.symm.trans hf)⟩⟩

/-! ### The sample of a read -/

/-- The state after line `k`, the sample of DATA whose byte a read returns (R112). -/
def afterRead (k : Nat) (s : State) : State :=
  { afterPrim k (.samplePort .dataLo) s with result := some (portIn (boundary s).1 .dataLo) }

section
variable {i : Instr} {k : Nat} {s : State}

theorem afterRead_flags (k : Nat) (s : State) : FlagsKept s (afterRead k s) ∧ (afterRead k s).raised = s.raised :=
  have h := afterPrim_records k (.samplePort .dataLo) s
  ⟨h.flags, h.raised⟩

theorem afterRead_seq (hq : s.seq = .running i k) : (afterRead k s).seq = .running i (k + 1) := afterPrim_seq hq _

theorem afterRead_out (k : Nat) (s : State) : (afterRead k s).out = s.out := afterPrim_out k (.samplePort .dataLo) s

theorem afterRead_dir (k : Nat) (s : State) : (afterRead k s).dir = s.dir := afterPrim_dir k (.samplePort .dataLo) s

theorem afterRead_trace (k : Nat) (s : State) :
    (afterRead k s).trace = s.trace ++ [.sample .dataLo (portIn (boundary s).1 .dataLo)] := by
  show (perform (.samplePort .dataLo) (boundary s).1).trace = _
  rw [perform_trace, (boundary_kept s).trace]
  rfl

theorem Attains.read (hscope : scopeHandler i = none) {prog : List ProgLine} {pos : Pos} (hq : s.seq = .running i k)
    (hl : prog[k]? = some ⟨pos, .readData, none⟩) : Attains prog 1 s (afterRead k s) := by
  have hdone : doLine k ⟨pos, .readData, none⟩ s = afterRead k s ∨
      (doLine k ⟨pos, .readData, none⟩ s).seq = .idle ∧ Disturbed s (doLine k ⟨pos, .readData, none⟩ s) :=
    access_disturbed_or hscope hq (.samplePort .dataLo) pos fun t => advance k ⟨pos, .readData, none⟩
      { perform (.samplePort .dataLo) t with result := some (portIn t .dataLo) }
  have htick := tick_line hq hl
  refine ⟨fun m => ?_, (afterRead_flags k s).1.1, 1, ?_⟩
  · rcases hdone with e | ⟨hidle, hd⟩
    · exact .inl (Reaches.next hq (htick.trans e) (afterRead_seq hq) (Nat.lt_succ_self k) m)
    · rw [Reaches.ended hq htick hidle m, runProg_idle m hidle]
      exact .inr hd
  · rw [List.drop_one]
    exact afterPrim_env k (.samplePort .dataLo) s

theorem Holding.afterRead (h : Holding i k s) {pos : Pos} (hl : (programOf s.cfg i)[k]? = some ⟨pos, .readData, none⟩) :
    Holding i (k + 1) (afterRead k s) := by
  obtain ⟨hb, hqb, hlb⟩ := h.good.atBoundary h.seq hl
  have hflags := perform_flagsStay (.samplePort .dataLo) (Machine.boundary s).1
  have hafter : KeepsGood _ (Machine.afterRead k s) :=
    hb.1.performed hqb hlb rfl ⟨rfl, rfl, rfl, rfl, rfl⟩ rfl (afterRead_seq h.seq)
      ⟨hflags.own, hflags.arm, hflags.mode, hflags.fault, hflags.killed⟩
      fun htake => absurd htake (not_waiting (jumpChecked_of_program hl) (by simp))
  exact ⟨hafter.1, (afterRead_flags k s).1.2.1.trans h.own, afterRead_seq h.seq, h.keeps⟩

/-- The read of DATA is no read of the port of M1 (R13, R24). -/
theorem Holding.afterRead_calm (h : Holding i k s) : Calm s (Machine.afterRead k s) := by
  have hw := h.worldOnly
  have hport : Port.dataLo ≠ (Machine.boundary s).1.cfg.pins.m1.port := fun e =>
    not_busPort (by rw [hw.cfg]; exact h.good.params.1) .m1 (.inr (.inr e.symm))
  exact ⟨hw.target, (touchPort_ioc_other hport).trans hw.ioc⟩

end

end Sys2Proof.Machine
end

section
/-! What a device does when a cycle's request strobe is asserted (R47 to R49), and what the cycle's lines come to: MEM_WRITE
stores its byte, IO_READ is seen once, and MEM_READ leaves the target as it is (R112 to R114). -/

namespace Sys2Proof.Machine

/-! ### The devices at the request -/

/-- A write that is not about RESET or the clock reaches the devices alone. -/
theorem react_devices {old new : State} (hreset : line new .reset = line old .reset)
    (hclken : line new .clken = line old .clken) (hclkout : clkoutHigh new = clkoutHigh old) :
    react old new = ioReadReact old (ioWriteReact old (memWriteReact old new)) := by
  obtain ⟨u, hu⟩ : ∃ u, u = ioReadReact old (ioWriteReact old (memWriteReact old new)) := ⟨_, rfl⟩
  have hlines : SameLines new u := hu ▸ (deviceReact_stores old new).sameLines
  have hresets : resetReact old u = u := by
    have hsame : asserts u .reset = asserts old .reset := by rw [hlines.asserts, asserts, hreset, asserts]
    unfold resetReact
    rw [hsame]
    cases asserts old .reset <;> simp
  have hclock : clockReact old u = u := by
    unfold clockReact
    rw [hlines.line, hlines.clkout, hclken, hclkout]
    simp
  rw [react, ← hu, hresets, hclock]

/-- The register write of the request strobe `req`, before the board has seen it. -/
def requested (req : Signal) (s : State) : State :=
  storeWrite (.outPin (s.cfg.pins.pin req) (assertedLevel s.cfg req)) s

section
variable {req : Signal} {old new s : State}

theorem perform_request (hc : s.cfg.pins.WellFormed) (hreq : req = .mreq ∨ req = .iorq) :
    SameLines (perform (.assert req) s) (requested req s) ∧ (perform (.assert req) s).target =
      (ioReadReact s (ioWriteReact s (memWriteReact s (requested req s)))).target := by
  have hlines : SameLines (perform (.assert req) s) (requested req s) :=
    .of_registers (perform_kept _ s).cfg.symm (applyWrite_dir ..).symm (applyWrite_out ..).symm
  obtain ⟨hreset, hclken, hclkout⟩ := perform_steady hc (p := .assert req) trivial (by rcases hreq with rfl | rfl <;> rfl)
  have hreact := react_devices (old := s) ((hlines.line _).trans hreset) ((hlines.line _).trans hclken)
    (hlines.clkout.trans hclkout)
  have hmade : (perform (.assert req) s).target = (react s (requested req s)).target := rfl
  exact ⟨hlines, by rw [hmade, hreact]⟩

theorem SameLines.windows (h : SameLines old new) : memWriteWindow new = memWriteWindow old ∧
    ioWriteWindow new = ioWriteWindow old ∧ ioReadWindow new = ioReadWindow old := by
  simp [memWriteWindow, ioWriteWindow, ioReadWindow, h.asserts]

/-- The memory device takes the byte when its write window alone is open (R47). -/
theorem devices_memWrite (hown : new.own = .acquired) (hm : memWriteWindow new = true) (hw : ioWriteWindow new = false)
    (hr : ioReadWindow new = false) : ioReadReact old (ioWriteReact old (memWriteReact old new)) = commitByte new := by
  have hstores : StoresOnly new (commitByte new) := storeByte_stores _ _ new _
  obtain ⟨_, hwrites, hreads⟩ := hstores.sameLines.windows
  have hmem : memWriteReact old new = commitByte new := by simp [memWriteReact, acting, hm, hown]
  have hwrite : ioWriteReact old (commitByte new) = commitByte new := by
    simp [ioWriteReact, acting_closed (hwrites.trans hw)]
  have hread : ioReadReact old (commitByte new) = commitByte new := by
    simp [ioReadReact, acting_closed (hreads.trans hr)]
  rw [hmem, hwrite, hread]

/-- The IO devices see a read when its window alone is open (R49). -/
theorem devices_ioRead (hown : new.own = .acquired) (hm : memWriteWindow new = false) (hw : ioWriteWindow new = false)
    (hr : ioReadWindow new = true) : ioReadReact old (ioWriteReact old (memWriteReact old new)) =
      { ioAccess (.read (busAddr new)) new with draws := new.draws + 3 } := by
  have hmem : memWriteReact old new = new := by simp [memWriteReact, acting_closed hm]
  have hwrite : ioWriteReact old new = new := by simp [ioWriteReact, acting_closed hw]
  rw [hmem, hwrite]
  simp [ioReadReact, acting, hr, hown]

end

/-! ### What the wires show at the request -/

/-- The write of a signal's latch bit leaves the bus ports (R13). -/
theorem get_busPort_setPin {c : Params} (hc : c.pins.WellFormed) {p : Port} (hp : BusPort p) (r : Ports) (g : Signal)
    (l : Bool) : (setPin r (c.pins.pin g) l).get p = r.get p :=
  get_setPin_other r l fun e => not_busPort hc g (e ▸ hp)

/-- The address latches hold `a`, bit-reversed (R65). -/
def ShowsAddr (a : Addr) (r : Ports) : Prop := r.addrHi = rev8 (hiByte a) ∧ r.addrLo = rev8 (loByte a)

theorem ShowsAddr.setPin {c : Params} (hc : c.pins.WellFormed) {a : Addr} {r : Ports} (h : ShowsAddr a r) (g : Signal)
    (l : Bool) : ShowsAddr a (setPin r (c.pins.pin g) l) := by
  obtain ⟨hhi, hlo⟩ := h
  exact ⟨(get_busPort_setPin hc (p := .addrHi) (.inl rfl) r g l).trans hhi,
    (get_busPort_setPin hc (p := .addrLo) (.inr (.inl rfl)) r g l).trans hlo⟩

theorem busAddr_of_shown {a : Addr} {s : State} (hdriven : addrDriven s) (hbus : s.target.ownsBus = false)
    (h : ShowsAddr a s.out) : busAddr s = a := by
  obtain ⟨hhi, hlo⟩ := h
  rw [busAddr_driven hdriven hbus, hhi, hlo, rev8_rev8, rev8_rev8, hiByte_append_loByte]

/-- DATA, driven by the controller alone, shows its latch (R17, R20). -/
theorem portIn_driven {s : State} (hown : s.own = .acquired) (hbus : s.target.ownsBus = false) (hdata : dataDriven s)
    (hrd : asserts s .rd = false) : portIn s .dataLo = s.out.dataLo := by
  have hlevel (i : Fin 8) : pinLevel s ⟨.dataLo, i⟩ = bitAt s.out.dataLo i := by
    have hout : isOutput s ⟨.dataLo, i⟩ = true := isOutput_of_allPins (q := ⟨.dataLo, i⟩) hdata
    have hwire : targetWire s ⟨.dataLo, i⟩ = .released := targetWire_data rfl hbus hrd hown
    simp [pinLevel, hout, hwire, getPin, Ports.get]
  rw [portIn, funext hlevel, byteOfBits_bitAt]

/-- DATA, floating in a memory read, shows the byte of the cell that the address reaches (R48). -/
theorem portIn_memory {s : State} {a : Addr} {c : Nat} {w : Bool} (hown : s.own = .acquired)
    (hbus : s.target.ownsBus = false) (hdata : dataFloats s) (hmem : memReadWindow s = true)
    (hio : ioReadWindow s = false) (haddr : busAddr s = a) (hcell : cellAt s a = some (c, w)) :
    portIn s .dataLo = s.target.mem.value c := by
  have hdrives : memoryDrives s = some (s.target.mem.value c) := by simp [memoryDrives, hown, hmem, haddr, hcell]
  have hlevel (i : Fin 8) : pinLevel s ⟨.dataLo, i⟩ = bitAt (s.target.mem.value c) i := by
    have hin : isOutput s ⟨.dataLo, i⟩ = false := isOutput_data_of_floats hdata rfl
    simp [pinLevel, hin, targetWire, hbus, deviceMayDrive, hio, hown, hdrives]
  rw [portIn, funext hlevel, byteOfBits_bitAt]

/-- The target after one write to its memory space: read-only and absent memory ignore it (R47). -/
def stored (c : Params) (a : Addr) (d : Byte) (g : Target) : Target :=
  match bankLookup c.bankMap g.bank a with
  | some (n, true) => { g with mem := g.mem.write n d }
  | _ => g

theorem storeByte_target (a : Addr) (d : Byte) (s : State) : (storeByte a d s).target = stored s.cfg a d s.target := by
  rcases e : bankLookup s.cfg.bankMap s.target.bank a with _ | ⟨n, _ | _⟩ <;> simp [storeByte, stored, cellAt, e]

theorem stored_world (c : Params) (a : Addr) (d : Byte) (g : Target) (int clk edge : Bool) :
    stored c a d { g with int := int, clk := clk, edge := edge } =
      { stored c a d g with int := int, clk := clk, edge := edge } := by
  unfold stored
  dsimp only
  split <;> rfl

/-- A write to the memory space changes memory alone (R111). -/
theorem stored_eq (c : Params) (a : Addr) (d : Byte) (g : Target) : stored c a d g = { g with mem := (stored c a d g).mem } := by
  unfold stored
  split <;> rfl

/-- What every cell holds after a write to the memory space (R47). -/
theorem stored_value (s : State) (a : Addr) (d : Byte) (n : Nat) : (stored s.cfg a d s.target).mem.value n =
    if cellAt s a = some (n, true) then d else s.target.mem.value n := by
  unfold stored cellAt
  split
  · next m h => simp [h, Memory.value_write, eq_comm]
  · next h => rw [if_neg (h n)]

/-- The target after its IO devices have seen one read (R49). -/
def inspected (a : Addr) (g : Target) : Target := { g with io := g.io ++ [.read a] }

section
variable {i : Instr} {k : Nat} {s : State} {a : Addr} {req : Signal}

theorem Holding.requested_busAddr (h : Holding i k s) (ha : ShowsAddr a s.out) : busAddr (requested req s) = a := by
  obtain ⟨_, haddr, _, hbus⟩ := h.good.busHeld h.own
  exact busAddr_of_shown (s := requested req s) haddr hbus (ha.setPin h.good.params.1 _ _)

theorem Holding.requested_portIn (h : Holding i k s) (hreq : req ≠ .rd) (hdrive : driveData (.running i k) = true)
    (hrd : activeStrobe (.running i k) .rd = false) : portIn (requested req s) .dataLo = s.out.dataLo := by
  obtain ⟨_, _, _, hbus⟩ := h.good.busHeld h.own
  obtain ⟨_, _, hdata⟩ := h.good.floating
  rw [h.seq, if_pos hdrive] at hdata
  have hline : line (requested req s) .rd = line s .rd := line_setPin_other h.good.params.1 _ hreq.symm
  have hquiet : Machine.asserts (requested req s) .rd = false := by
    rw [Machine.asserts, hline]
    exact (h.asserts (by decide)).trans hrd
  exact (portIn_driven (s := requested req s) h.own hbus hdata hquiet).trans
    (get_busPort_setPin h.good.params.1 (p := .dataLo) (.inr (.inr rfl)) _ _ _)

/-- THE MEMORY TAKES THE BYTE when MREQ is asserted in a write (R47, R113). -/
theorem Holding.memWriteRequest {addr data : Nat} {d : Byte} (h : Holding (.memWrite addr data) 5 s)
    (hl : ∃ pos, (programOf s.cfg (.memWrite addr data))[5]? = some ⟨pos, .prim (.assert .mreq), none⟩)
    (ha : ShowsAddr a s.out) (hd : s.out.dataLo = d) :
    Calm { s with target := stored s.cfg a d s.target } (Machine.afterPrim 5 (.assert .mreq) s) := by
  obtain ⟨pos, hl⟩ := hl
  have hb := h.boundary
  have hw := h.worldOnly
  obtain ⟨hlines, htarget⟩ := perform_request hb.good.params.1 (.inl rfl)
  obtain ⟨hmems, hwrites, hreads⟩ := hlines.windows
  obtain ⟨hmem, _, hwrite, hread⟩ := (h.afterPrim hl).windows
  rw [devices_memWrite (new := requested .mreq _) hb.own (hmems.trans hmem) (hwrites.trans hwrite) (hreads.trans hread)] at htarget
  have hstored : (Machine.afterPrim 5 (.assert .mreq) s).target = stored s.cfg a d (Machine.boundary s).1.target := by
    refine htarget.trans ((storeByte_target ..).trans ?_)
    rw [hb.requested_busAddr (by rw [hw.out]; exact ha), hb.requested_portIn (by decide) rfl rfl, hw.out, hd, ← hw.cfg]
    rfl
  refine ⟨?_, (perform_ioc_unread (p := .assert .mreq) rfl rfl _).trans hw.ioc⟩
  rw [hstored, hw.target, stored_world]

/-- THE IO DEVICES SEE THE READ when IORQ is asserted (R49, R114). -/
theorem Holding.ioReadRequest {addr : Nat} (h : Holding (.ioRead addr) 3 s)
    (hl : ∃ pos, (programOf s.cfg (.ioRead addr))[3]? = some ⟨pos, .prim (.assert .iorq), none⟩)
    (ha : ShowsAddr a s.out) :
    Calm { s with target := inspected a s.target } (Machine.afterPrim 3 (.assert .iorq) s) := by
  obtain ⟨pos, hl⟩ := hl
  have hb := h.boundary
  have hw := h.worldOnly
  obtain ⟨hlines, htarget⟩ := perform_request hb.good.params.1 (.inr rfl)
  obtain ⟨hmems, hwrites, hreads⟩ := hlines.windows
  obtain ⟨hmem, _, hwrite, hread⟩ := (h.afterPrim hl).windows
  rw [devices_ioRead (new := requested .iorq _) hb.own (hmems.trans hmem) (hwrites.trans hwrite) (hreads.trans hread),
    hb.requested_busAddr (by rw [hw.out]; exact ha)] at htarget
  refine ⟨?_, (perform_ioc_unread (p := .assert .iorq) rfl rfl _).trans hw.ioc⟩
  have hseen : (Machine.afterPrim 3 (.assert .iorq) s).target = inspected a (Machine.boundary s).1.target := htarget
  rw [hseen, hw.target]
  rfl

end

end Sys2Proof.Machine
end

section
/-! The five cycle operations from issue to return (R112 to R116): what each leaves, unless an abort or a kill disturbs it. -/

namespace Sys2Proof.Machine

/-! ### Strobes that pulse -/

/-- Between operations, with the bus held, every strobe latch is inactive (I-STROBE). -/
theorem Good.latchesInactive {s : State} (hs : Good s) (hown : s.own = .acquired) (hidle : s.seq = .idle) :
    strobeLatchesInactive s := fun g hg => by
  have h := hs.strobesAsPlaced hown g hg
  rwa [hidle] at h

/-- The latches after the strobe `g` has been asserted and de-asserted around `h` (R117). -/
def pulsedTwice (c : Params) (g h : Signal) (r : Ports) : Ports :=
  setPin (setPin (setPin (setPin r (c.pins.pin g) (assertedLevel c g)) (c.pins.pin h) (assertedLevel c h)) (c.pins.pin h)
    (!assertedLevel c h)) (c.pins.pin g) (!assertedLevel c g)

/-- Inactive strobes that pulse are as they were. -/
theorem pulsedTwice_eq {c : Params} (hc : c.pins.WellFormed) {g h : Signal} (hne : h ≠ g) {r : Ports}
    (hg : getPin r (c.pins.pin g) = levelOf c g false) (hh : getPin r (c.pins.pin h) = levelOf c h false) :
    pulsedTwice c g h r = r := by
  have hinner : getPin (setPin r (c.pins.pin g) (assertedLevel c g)) (c.pins.pin h) = !assertedLevel c h :=
    (getPin_setPin_other _ _ (PinMap.WellFormed.pin_ne hc hne)).trans hh
  rw [pulsedTwice, setPin_setPin_same, setPin_eq_self hinner, setPin_setPin_same]
  exact setPin_eq_self hg

/-- No control signal is on a bus port (R13). -/
theorem getPin_latched {c : Params} (hc : c.pins.WellFormed) (r : Ports) (a : Addr) (g : Signal) :
    getPin (latched r a) (c.pins.pin g) = getPin r (c.pins.pin g) := by
  have hset : latched r a = (r.set .addrHi (rev8 (hiByte a))).set .addrLo (rev8 (loByte a)) := rfl
  rw [hset, getPin_set_busPort hc (.inr (.inl rfl)), getPin_set_busPort hc (.inl rfl)]

theorem getPin_latchedData {c : Params} (hc : c.pins.WellFormed) (r : Ports) (a : Addr) (d : Byte) (g : Signal) :
    getPin (latchedData r a d) (c.pins.pin g) = getPin r (c.pins.pin g) := by
  have hset : latchedData r a d = (latched r a).set .dataLo d := rfl
  rw [hset, getPin_set_busPort hc (.inr (.inr rfl)), getPin_latched hc]

theorem flagsKept_trans {s t u : State} (h : FlagsKept s t) (k : FlagsKept t u) : FlagsKept s u := by
  obtain ⟨h1, h2, h3, h4, h5, h6, h7, h8, h9⟩ := h
  obtain ⟨k1, k2, k3, k4, k5, k6, k7, k8, k9⟩ := k
  exact ⟨k1.trans h1, k2.trans h2, k3.trans h3, k4.trans h4, k5.trans h5, k6.trans h6, k7.trans h7, k8.trans h8,
    k9.trans h9⟩

/-! ### The read cycle -/

/-- The lines of a read cycle before its request (R110). -/
def readSetup (c : Params) (a : Addr) : List Prim := addressLatches c a ++ [.assert .rd]

/-- The lines of a read cycle before its sample (R110). -/
def readStart (c : Params) (req : Signal) (a : Addr) : List Prim := readSetup c a ++ [.assert req]

/-- The lines of a read cycle after its sample (R110). -/
def readEnd (req : Signal) : List Prim := [.deassert req, .deassert .rd]

section
variable (c : Params) (op : Op) (req : Signal) (a : Addr)

theorem readSetup_length : (readSetup c a).length = 3 := by
  rw [readSetup, List.length_append, addressLatches_length]
  rfl

theorem readStart_length : (readStart c req a).length = 4 := by
  rw [readStart, List.length_append, readSetup_length]
  rfl

theorem primsAt_readCycle : PrimsAt (readCycle c op req a) 0 (readStart c req a) ∧
    (readCycle c op req a)[4]? = some (ln op 4 0 .readData) ∧ PrimsAt (readCycle c op req a) 5 (readEnd req) ∧
    (readCycle c op req a).length = 7 := by
  unfold readCycle readStart readSetup readEnd latchLines addressLatches
  cases c.addrPortOrder <;>
    exact ⟨.cons rfl (.cons rfl (.cons rfl (.cons rfl .nil))), rfl, .cons rfl (.cons rfl .nil), rfl⟩

theorem readSetup_cyclePrim : ∀ p ∈ readSetup c a, CyclePrim p := by
  intro p hp
  rcases List.mem_append.mp hp with hp | hp
  · obtain ⟨q, v, rfl, hq⟩ := addressLatches_latchBus c a p hp
    exact ⟨⟨hq, rfl, rfl, rfl⟩, by simp⟩
  · obtain rfl := List.mem_singleton.mp hp
    exact ⟨⟨trivial, rfl, rfl, rfl⟩, by simp⟩

theorem request_cyclePrim {req : Signal} (hreq : req = .mreq ∨ req = .iorq) : CyclePrim (.assert req) := by
  rcases hreq with rfl | rfl <;> exact ⟨⟨trivial, rfl, rfl, rfl⟩, by simp⟩

theorem readStart_cyclePrim {req : Signal} (hreq : req = .mreq ∨ req = .iorq) : ∀ p ∈ readStart c req a, CyclePrim p := by
  intro p hp
  rcases List.mem_append.mp hp with hp | hp
  · exact readSetup_cyclePrim c a p hp
  · obtain rfl := List.mem_singleton.mp hp
    exact request_cyclePrim hreq

theorem readEnd_cyclePrim {req : Signal} (hreq : req = .mreq ∨ req = .iorq) : ∀ p ∈ readEnd req, CyclePrim p := by
  intro p hp
  simp only [readEnd, List.mem_cons, List.not_mem_nil, or_false] at hp
  rcases hp with rfl | rfl
  · rcases hreq with rfl | rfl <;> exact ⟨⟨trivial, rfl, rfl, rfl⟩, by simp⟩
  · exact ⟨⟨trivial, rfl, rfl, rfl⟩, by simp⟩

theorem readSetup_out (r : Ports) : (readSetup c a).foldl (fun r p => latchesAfter c p r) r =
    setPin (latched r a) (c.pins.pin .rd) (assertedLevel c .rd) := by
  rw [readSetup, List.foldl_append, addressLatches_out]
  rfl

theorem readStart_out (r : Ports) : (readStart c req a).foldl (fun r p => latchesAfter c p r) r =
    setPin (setPin (latched r a) (c.pins.pin .rd) (assertedLevel c .rd)) (c.pins.pin req) (assertedLevel c req) := by
  rw [readStart, List.foldl_append, readSetup_out]
  rfl

theorem readStart_dir (r : Ports) : (readStart c req a).foldl (fun r p => directionsAfter c p r) r = r := by
  rw [readStart, readSetup, List.foldl_append, List.foldl_append, addressLatches_dir]
  rfl

theorem readStart_events (s : State) : ((readStart c req a).map fun p => eventOf p s) =
    latchEvents c a ++ [.assert .rd, .assert req] := by
  rw [readStart, readSetup, List.map_append, List.map_append, addressLatches_events, List.append_assoc]
  rfl

end

/-- `i` is a read cycle at `a` with request strobe `req` (R112, R114). -/
structure ReadOp (i : Instr) (op : Op) (req : Signal) (a : Addr) : Prop where
  program : ∀ c, programOf c i = readCycle c op req a
  scope : scopeHandler i = none
  keeps : keepsBus i = true
  allowed : ∀ s, allowed s i = acquired s
  request : req = .mreq ∨ req = .iorq
  closed : ((List.range 2).all fun j => closedAt (.running i (5 + j + 1))) = true

theorem readOp_memRead (addr : Nat) : ReadOp (.memRead addr) .memRead .mreq (addrOf addr) :=
  ⟨fun _ => rfl, rfl, rfl, fun _ => rfl, .inl rfl, rfl⟩

theorem readOp_ioRead (addr : Nat) : ReadOp (.ioRead addr) .ioRead .iorq (addrOf addr) :=
  ⟨fun _ => rfl, rfl, rfl, fun _ => rfl, .inr rfl, rfl⟩

/-- The state before the sample of the read cycle `i`. -/
def beforeSample (i : Instr) (req : Signal) (a : Addr) (s : State) : State :=
  afterPrims 0 (readStart s.cfg req a) (beginOp i s)

/-- The state after the whole read cycle `i`, nothing having disturbed it. -/
def afterReadCycle (i : Instr) (req : Signal) (a : Addr) (s : State) : State :=
  opReturn (afterPrims 5 (readEnd req) (afterRead 4 (beforeSample i req a s)))

/-- The byte that the read cycle `i` samples. -/
def sampledByte (i : Instr) (req : Signal) (a : Addr) (s : State) : Byte :=
  portIn (boundary (beforeSample i req a s)).1 .dataLo

/-- The read cycle `i` at `a` has returned from `s` to `t`, with the target as `g`. -/
structure ReadDone (i : Instr) (req : Signal) (a : Addr) (g : Target) (s t : State) : Prop where
  returned : Returned t
  flags : FlagsKept s t
  dir : t.dir = s.dir
  result : t.result = some (sampledByte i req a s)
  out : t.out = latched s.out a
  trace : t.trace = s.trace ++ readEvents s.cfg req a (sampledByte i req a s)
  calm : Calm { s with target := g } t

section
variable {i : Instr} {op : Op} {req : Signal} {a : Addr} {s t : State}

/-- ALL THAT A READ CYCLE CAN DO. -/
theorem ReadOp.exec_cases (hop : ReadOp i op req a) (h : exec i s = .next t) :
    t = afterReadCycle i req a s ∨ Disturbed s t := by
  obtain ⟨_, _, rfl⟩ := exec_next h
  obtain ⟨hstart, hdata, hend, hlength⟩ := primsAt_readCycle s.cfg op req a
  rw [hop.program]
  have hq : (beforeSample i req a s).seq = .running i 4 := by
    have h := afterPrims_seq (s := beginOp i s) rfl (readStart s.cfg req a)
    rwa [readStart_length] at h
  have hq' := afterRead_seq hq
  have hrun := (((Attains.prims hop.scope (s := beginOp i s) rfl hstart).trans (.read hop.scope hq hdata)).trans
    (.prims hop.scope hq' hend)).trans
      (.returns (afterPrims_seq hq' (readEnd req)) (List.getElem?_eq_none hlength.le))
  rw [readStart_length] at hrun
  exact hrun.runOp_eq (by rw [hlength]; rfl) rfl

theorem ReadOp.begins (hop : ReadOp i op req a) (hs : Good s) (hown : s.own = .acquired) (hidle : s.seq = .idle) :
    Holding i 0 (beginOp i s) ∧ PrimsAt (programOf (beginOp i s).cfg i) 0 (readStart s.cfg req a) ∧
      Holding i 4 (beforeSample i req a s) := by
  have hbegin := Holding.begin hs hidle hown ((hop.allowed s).trans ((acquired_iff s).mpr hown)) hop.keeps
  obtain ⟨hstart, _⟩ := primsAt_readCycle s.cfg op req a
  have hstart' : PrimsAt (programOf (beginOp i s).cfg i) 0 (readStart s.cfg req a) := by rwa [hop.program]
  have hafter := hbegin.afterPrims hstart'
  rw [readStart_length] at hafter
  exact ⟨hbegin, hstart', hafter⟩

/-- What a read cycle leaves, given the target as its request leaves it (R110, R111). -/
theorem ReadOp.done (hop : ReadOp i op req a) (hs : Good s) (hown : s.own = .acquired) (hidle : s.seq = .idle)
    {g : Target} (hcalm : Calm { s with target := g } (beforeSample i req a s)) :
    ReadDone i req a g s (afterReadCycle i req a s) := by
  obtain ⟨_, _, hu⟩ := hop.begins hs hown hidle
  obtain ⟨_, hdata, hend, _⟩ := primsAt_readCycle s.cfg op req a
  obtain ⟨u, hudef⟩ : ∃ u, u = beforeSample i req a s := ⟨_, rfl⟩
  have hrecords := afterPrims_records 0 (readStart s.cfg req a) (beginOp i s)
  have hout := afterPrims_out 0 (readStart s.cfg req a) (beginOp i s)
  have hdir := afterPrims_dir 0 (readStart s.cfg req a) (beginOp i s)
  have htrace := afterPrims_trace
    (fun p hp => (readStart_cyclePrim s.cfg a hop.request p hp).unread) 0 (beginOp i s)
  rw [beginOp_cfg, readStart_out] at hout
  rw [beginOp_cfg, readStart_dir] at hdir
  rw [readStart_events] at htrace
  rw [← beforeSample, ← hudef] at hrecords hout hdir htrace
  rw [← hudef] at hu hcalm
  have hcfg : u.cfg = s.cfg := hrecords.flags.1
  have hv := hu.afterRead (by rw [hcfg, hop.program]; exact hdata)
  obtain ⟨hflags, hraised⟩ := afterRead_flags 4 u
  have hcfgv : (afterRead 4 u).cfg = s.cfg := hflags.1.trans hcfg
  have hendv : PrimsAt (programOf (afterRead 4 u).cfg i) 5 (readEnd req) := by rwa [hop.program, hcfgv]
  have hrecords' := afterPrims_records 5 (readEnd req) (afterRead 4 u)
  have hprims := readEnd_cyclePrim hop.request
  have hsampled : sampledByte i req a s = portIn (boundary u).1 .dataLo := by rw [hudef]; rfl
  rw [afterReadCycle, ← hudef]
  refine ⟨⟨rfl, hrecords'.raised.trans (hraised.trans hrecords.raised), rfl⟩,
    flagsKept_trans (flagsKept_trans hrecords.flags hflags) hrecords'.flags, ?_, ?_, ?_, ?_, ?_⟩
  · rw [opReturn_dir, afterPrims_dir]
    exact (afterRead_dir 4 u).trans hdir
  · rw [hsampled]
    exact hrecords'.result
  · have hinactive := hs.latchesInactive hown hidle
    rw [opReturn_out, afterPrims_out, afterRead_out, hcfgv, hout]
    refine pulsedTwice_eq hs.params.1 (by rcases hop.request with rfl | rfl <;> decide) ?_ ?_
    · exact (getPin_latched hs.params.1 _ _ _).trans (hinactive .rd (by decide))
    · exact (getPin_latched hs.params.1 _ _ _).trans (hinactive req (by rcases hop.request with rfl | rfl <;> decide))
  · rw [opReturn_trace, afterPrims_trace fun p hp => (hprims p hp).unread, afterRead_trace, htrace, hsampled, readEvents]
    simp [readEnd, eventOf]
  · have hlast := hv.calm hendv hprims hop.closed
    exact hcalm.trans (hu.afterRead_calm.trans ⟨hlast.target, hlast.ioc⟩)

end

/-- `MEM_READ(addr)` leaves the target as it is (R112). -/
theorem memRead_done {s : State} {addr : Nat} (hs : Good s) (hown : s.own = .acquired) (hidle : s.seq = .idle) :
    ReadDone (.memRead addr) .mreq (addrOf addr) s.target s (afterReadCycle (.memRead addr) .mreq (addrOf addr) s) := by
  have hop := readOp_memRead addr
  obtain ⟨hbegin, hprog, _⟩ := hop.begins hs hown hidle
  refine hop.done hs hown hidle ?_
  have hcalm := hbegin.calm hprog (readStart_cyclePrim _ _ hop.request) (by rw [readStart_length]; rfl)
  exact ⟨hcalm.target, hcalm.ioc⟩

/-- `IO_READ(addr)` is seen once by the IO devices (R114). -/
theorem ioRead_done {s : State} {addr : Nat} (hs : Good s) (hown : s.own = .acquired) (hidle : s.seq = .idle) :
    ReadDone (.ioRead addr) .iorq (addrOf addr) (inspected (addrOf addr) s.target) s
      (afterReadCycle (.ioRead addr) .iorq (addrOf addr) s) := by
  have hop := readOp_ioRead addr
  obtain ⟨hbegin, hprog, _⟩ := hop.begins hs hown hidle
  refine hop.done hs hown hidle ?_
  obtain ⟨a, ha⟩ : ∃ a, a = addrOf addr := ⟨_, rfl⟩
  obtain ⟨u, hu⟩ : ∃ u, u = afterPrims 0 (readSetup s.cfg a) (beginOp (.ioRead addr) s) := ⟨_, rfl⟩
  rw [← ha] at hprog ⊢
  have hcalm := hbegin.calm hprog.left (readSetup_cyclePrim s.cfg a) (by rw [readSetup_length]; rfl)
  have hheld := hbegin.afterPrims hprog.left
  have hout := afterPrims_out 0 (readSetup s.cfg a) (beginOp (.ioRead addr) s)
  have hcfg := afterPrims_cfg 0 (readSetup s.cfg a) (beginOp (.ioRead addr) s)
  rw [readSetup_length] at hheld
  rw [beginOp_cfg, readSetup_out] at hout
  rw [← hu] at hcalm hheld hout hcfg
  have hshown : ShowsAddr a u.out := by
    rw [hout]
    exact ShowsAddr.setPin hs.params.1 ⟨rfl, rfl⟩ _ _
  have hline := hprog 3 (.assert .iorq) (by
    rw [readStart, List.getElem?_append_right (readSetup_length s.cfg a).le, readSetup_length]
    rfl)
  have hrequest := hheld.ioReadRequest (by rw [hcfg]; exact hline) hshown
  have hstart : beforeSample (.ioRead addr) .iorq a s = afterPrim 3 (.assert .iorq) u := by
    rw [beforeSample, readStart, afterPrims_append, readSetup_length, hu]
    rfl
  rw [hstart]
  refine ⟨?_, hrequest.ioc.trans hcalm.ioc⟩
  rw [hrequest.target]
  dsimp only
  rw [hcalm.target]
  rfl

/-- The byte that `MEM_READ(addr)` samples is the one of the cell that the address reaches (R48, R112). -/
theorem sampledByte_memRead {s : State} {addr c : Nat} {w : Bool} (hs : Good s) (hown : s.own = .acquired)
    (hidle : s.seq = .idle) (hcell : cellAt s (addrOf addr) = some (c, w)) :
    sampledByte (.memRead addr) .mreq (addrOf addr) s = s.target.mem.value c := by
  have hop := readOp_memRead addr
  obtain ⟨hbegin, hprog, hu⟩ := hop.begins hs hown hidle
  have hcalm := hbegin.calm hprog (readStart_cyclePrim _ _ hop.request) (by rw [readStart_length]; rfl)
  have hout := afterPrims_out 0 (readStart s.cfg .mreq (addrOf addr)) (beginOp (.memRead addr) s)
  have hcfg := afterPrims_cfg 0 (readStart s.cfg .mreq (addrOf addr)) (beginOp (.memRead addr) s)
  rw [beginOp_cfg, readStart_out] at hout
  have hb := hu.boundary
  have hw := hu.worldOnly
  obtain ⟨_, haddr, _, hbus⟩ := hb.good.busHeld hb.own
  obtain ⟨_, _, hdata⟩ := hb.good.floating
  rw [hb.seq, if_neg (by exact Bool.false_ne_true)] at hdata
  obtain ⟨_, hread, _, hio⟩ := hb.windows
  have htarget : (boundary (beforeSample (.memRead addr) .mreq (addrOf addr) s)).1.target.mem = s.target.mem ∧
      (boundary (beforeSample (.memRead addr) .mreq (addrOf addr) s)).1.target.bank = s.target.bank := by
    rw [hw.target, beforeSample, hcalm.target]
    exact ⟨rfl, rfl⟩
  obtain ⟨hmem, hbank⟩ := htarget
  rw [sampledByte, ← hmem]
  refine portIn_memory (a := addrOf addr) hb.own hbus hdata hread hio (busAddr_of_shown haddr hbus ?_) (w := w) ?_
  · rw [hw.out, beforeSample, hout]
    exact (ShowsAddr.setPin hs.params.1 ⟨rfl, rfl⟩ _ _).setPin hs.params.1 _ _
  · rw [cellAt, hbank, hw.cfg, beforeSample, hcfg]
    exact hcell

/-- Settles O14: a sound script lets every line of the cycle be done, and at its sample the memory device drives DATA. -/
theorem memReadCompletes : Obligations.MemReadCompletes := by
  intro s a ⟨hgood, hown, hidle, hsound⟩ ha
  obtain ⟨t, ht⟩ := (exec_of_idle (i := .memRead a) ha hidle).1.mpr ((acquired_iff s).mpr hown)
  obtain rfl := ((readOp_memRead a).exec_cases ht).resolve_right fun hd => hd.not_sound hsound
  have hdone := memRead_done (addr := a) hgood hown hidle
  obtain ⟨htarget, hstores⟩ := hdone.calm.kept
  exact ⟨_, _, ht, hdone.returned, ⟨hdone.flags, hdone.calm.ioc, hdone.dir, htarget⟩, hstores, hdone.result, hdone.out,
    hdone.trace, fun c w hcell => sampledByte_memRead hgood hown hidle hcell⟩

/-- Settles O16: the one line that opens the IO read window is seen by the IO devices. -/
theorem ioReadCompletes : Obligations.IoReadCompletes := by
  intro s a ⟨hgood, hown, hidle, hsound⟩ ha
  obtain ⟨t, ht⟩ := (exec_of_idle (i := .ioRead a) ha hidle).1.mpr ((acquired_iff s).mpr hown)
  obtain rfl := ((readOp_ioRead a).exec_cases ht).resolve_right fun hd => hd.not_sound hsound
  have hdone := ioRead_done (addr := a) hgood hown hidle
  obtain ⟨htarget, hmem, hio, hbank⟩ := hdone.calm.kept
  exact ⟨_, _, ht, hdone.returned, ⟨hdone.flags, hdone.calm.ioc, hdone.dir, htarget⟩, hmem, hio, hbank, hdone.result,
    hdone.out, hdone.trace⟩

end Sys2Proof.Machine
end

section
/-! The write cycles from issue to return (R113, R115, R116), and the one that aborts at its request (R184). -/

namespace Sys2Proof.Machine

/-! ### The write cycle -/

/-- The lines of a write cycle (R110). -/
def writePrims (c : Params) (req : Signal) (a : Addr) (d : Byte) : List Prim :=
  writeSetup c a d ++ .assert req :: [.deassert req, .deassert .wr, .float .data]

section
variable (c : Params) (op : Op) (req : Signal) (a : Addr) (d : Byte)

theorem primsAt_writeCycle :
    PrimsAt (writeCycle c op req a d) 0 (writePrims c req a d) ∧ (writeCycle c op req a d).length = 9 ∧
      (writePrims c req a d).length = 9 := by
  unfold writeCycle writePrims writeSetup latchLines addressLatches
  cases c.addrPortOrder <;>
    exact ⟨.cons rfl (.cons rfl (.cons rfl (.cons rfl (.cons rfl (.cons rfl (.cons rfl (.cons rfl (.cons rfl
      .nil)))))))), rfl, rfl⟩

theorem writeEnd_cyclePrim {req : Signal} (hreq : req = .mreq ∨ req = .iorq) :
    ∀ p ∈ [Prim.deassert req, .deassert .wr, .float .data], CyclePrim p := by
  intro p hp
  simp only [List.mem_cons, List.not_mem_nil, or_false] at hp
  rcases hp with rfl | rfl | rfl
  · rcases hreq with rfl | rfl <;> exact ⟨⟨trivial, rfl, rfl, rfl⟩, by simp⟩
  all_goals exact ⟨⟨trivial, rfl, rfl, rfl⟩, by simp⟩

theorem writePrims_cyclePrim {req : Signal} (hreq : req = .mreq ∨ req = .iorq) :
    ∀ p ∈ writePrims c req a d, CyclePrim p := by
  intro p hp
  rcases List.mem_append.mp hp with hp | hp
  · exact (writeSetup_unrequesting c a d p hp).cyclePrim
  · rcases List.mem_cons.mp hp with rfl | hp
    · exact request_cyclePrim hreq
    · exact writeEnd_cyclePrim hreq p hp

theorem writeSetup_dir (r : Ports) :
    (writeSetup c a d).foldl (fun r p => directionsAfter c p r) r = r.set .dataLo (allPins c true) := by
  rw [writeSetup, List.foldl_append, addressLatches_dir]
  rfl

/-- A write cycle leaves DATA floating as it was (R119). -/
theorem writePrims_dir {r : Ports} (h : r.dataLo = allPins c false) :
    (writePrims c req a d).foldl (fun r p => directionsAfter c p r) r = r := by
  rw [writePrims, List.foldl_append, writeSetup_dir]
  show (r.set .dataLo (allPins c true)).set .dataLo (allPins c false) = r
  rw [Ports.set_set_same, ← h]
  exact Ports.set_get_same r .dataLo

/-- A write cycle leaves its address and its byte in the latches, and the strobes as they were (R111). -/
theorem writePrims_out {c : Params} (hc : c.pins.WellFormed) {req : Signal} (hreq : req ≠ .wr) {r : Ports}
    (hwr : getPin r (c.pins.pin .wr) = levelOf c .wr false) (hr : getPin r (c.pins.pin req) = levelOf c req false) :
    (writePrims c req a d).foldl (fun r p => latchesAfter c p r) r = latchedData r a d := by
  rw [writePrims, List.foldl_append, writeSetup_out]
  exact pulsedTwice_eq hc hreq ((getPin_latchedData hc r a d .wr).trans hwr) ((getPin_latchedData hc r a d req).trans hr)

theorem writeSetup_events (s : State) : ((writeSetup c a d).map fun p => eventOf p s) =
    latchEvents c a ++ [.drive .data, .latch .dataLo d, .assert .wr] := by
  rw [writeSetup, List.map_append, addressLatches_events]
  rfl

theorem writePrims_events (s : State) :
    ((writePrims c req a d).map fun p => eventOf p s) = writeEvents c req a d := by
  rw [writePrims, List.map_append, writeSetup_events, List.append_assoc]
  rfl

end

/-- Under the parameters `c`, `i` is a write cycle of `d` to `a` with request strobe `req` (R113, R115, R116). -/
structure WriteOp (c : Params) (i : Instr) (op : Op) (req : Signal) (a : Addr) (d : Byte) : Prop where
  program : programOf c i = writeCycle c op req a d
  scope : scopeHandler i = none
  keeps : keepsBus i = true
  allowed : ∀ s, allowed s i = acquired s
  request : req = .mreq ∨ req = .iorq
  place : ∀ k, writeAt (.running i k) = some k

section
variable (c : Params)

theorem writeOp_memWrite (addr data : Nat) :
    WriteOp c (.memWrite addr data) .memWrite .mreq (addrOf addr) (byteOf data) :=
  ⟨rfl, rfl, rfl, fun _ => rfl, .inl rfl, fun _ => rfl⟩

theorem writeOp_ioWrite (addr data : Nat) : WriteOp c (.ioWrite addr data) .ioWrite .iorq (addrOf addr) (byteOf data) :=
  ⟨rfl, rfl, rfl, fun _ => rfl, .inr rfl, fun _ => rfl⟩

theorem writeOp_bankSelect (bank : Nat) :
    WriteOp c (.bankSelect bank) .ioWrite .iorq c.bankSelectPort (byteOf bank) :=
  ⟨rfl, rfl, rfl, fun _ => rfl, .inr rfl, fun _ => rfl⟩

end

/-- The state after the whole write cycle `i`, nothing having disturbed it. -/
def afterWriteCycle (i : Instr) (req : Signal) (a : Addr) (d : Byte) (s : State) : State :=
  opReturn (afterPrims 0 (writePrims s.cfg req a d) (beginOp i s))

/-- A write cycle of `d` to `a` has returned from `s` to `t`, with the target as `g`. -/
structure WriteDone (req : Signal) (a : Addr) (d : Byte) (g : Target) (s t : State) : Prop where
  returned : Returned t
  flags : FlagsKept s t
  dir : t.dir = s.dir
  result : t.result = s.result
  out : t.out = latchedData s.out a d
  trace : t.trace = s.trace ++ writeEvents s.cfg req a d
  calm : Calm { s with target := g } t

section
variable {i : Instr} {op : Op} {req : Signal} {a : Addr} {d : Byte} {s t : State}

/-- ALL THAT A WRITE CYCLE CAN DO. -/
theorem WriteOp.exec_cases (hop : WriteOp s.cfg i op req a d) (h : exec i s = .next t) :
    t = afterWriteCycle i req a d s ∨ Disturbed s t := by
  obtain ⟨_, _, rfl⟩ := exec_next h
  obtain ⟨hprims, hlength, hlength'⟩ := primsAt_writeCycle s.cfg op req a d
  rw [hop.program]
  exact runOp_prims_cases hop.scope (s := beginOp i s) rfl hprims (hlength.trans hlength'.symm)

theorem WriteOp.begins (hop : WriteOp s.cfg i op req a d) (hs : Good s) (hown : s.own = .acquired)
    (hidle : s.seq = .idle) :
    Holding i 0 (beginOp i s) ∧ PrimsAt (programOf (beginOp i s).cfg i) 0 (writePrims s.cfg req a d) := by
  obtain ⟨hprims, _⟩ := primsAt_writeCycle s.cfg op req a d
  exact ⟨.begin hs hidle hown ((hop.allowed s).trans ((acquired_iff s).mpr hown)) hop.keeps,
    by rwa [beginOp_cfg, hop.program]⟩

/-- What a write cycle leaves, given the target as it leaves it (R110, R111). -/
theorem WriteOp.done (hop : WriteOp s.cfg i op req a d) (hs : Good s) (hown : s.own = .acquired) (hidle : s.seq = .idle)
    {g : Target} (hcalm : Calm { s with target := g } (afterPrims 0 (writePrims s.cfg req a d) (beginOp i s))) :
    WriteDone req a d g s (afterWriteCycle i req a d s) := by
  have hrecords := afterPrims_records 0 (writePrims s.cfg req a d) (beginOp i s)
  have hinactive := hs.latchesInactive hown hidle
  have hreq : req ≠ .wr ∧ req ∈ strobes := by rcases hop.request with rfl | rfl <;> decide
  obtain ⟨hne, hmem⟩ := hreq
  refine ⟨⟨rfl, hrecords.raised, rfl⟩, hrecords.flags, ?_, hrecords.result, ?_, ?_, ⟨hcalm.target, hcalm.ioc⟩⟩
  · exact (afterPrims_dir ..).trans (writePrims_dir _ _ _ _ (hs.dataFloats_of_idle hidle))
  · exact (afterPrims_out ..).trans (writePrims_out _ _ hs.params.1 hne (hinactive .wr (by decide)) (hinactive req hmem))
  · rw [← writePrims_events _ _ _ _ (beginOp i s)]
    exact afterPrims_trace (fun p hp => (writePrims_cyclePrim s.cfg a d hop.request p hp).unread) 0 _

/-- With the bus held the IO devices see an IO write once (R115, R116). -/
theorem WriteOp.io_done (hop : WriteOp s.cfg i op .iorq a d) (hs : Good s) (hown : s.own = .acquired)
    (hidle : s.seq = .idle) :
    WriteDone .iorq a d (written s.cfg a d s.target) s (afterWriteCycle i .iorq a d s) := by
  obtain ⟨hbegin, hprog⟩ := hop.begins hs hown hidle
  have hinactive := hs.latchesInactive hown hidle
  have hcalm := afterPrims_ioWrite hbegin.good hown rfl hprog (hop.place _) hbegin.offBus
    ⟨hinactive .mreq (by decide), hinactive .iorq (by decide)⟩
  exact hop.done hs hown hidle ⟨hcalm.target, hcalm.ioc⟩

end

section
variable {addr data : Nat} {s : State}

/-- `MEM_WRITE` before its request: the bus shows the address and the byte, and the target is as it was (R113). -/
structure WriteRequesting (addr data : Nat) (s u : State) : Prop where
  held : Holding (.memWrite addr data) 5 u
  calm : Calm s u
  records : RecordsStand (beginOp (.memWrite addr data) s) u
  env : u.env = s.env.drop 5
  shown : ShowsAddr (addrOf addr) u.out
  byte : u.out.dataLo = byteOf data
  trace : u.trace = s.trace ++ latchEvents s.cfg (addrOf addr) ++ [.drive .data, .latch .dataLo (byteOf data), .assert .wr]

theorem memWrite_requesting (hs : Good s) (hown : s.own = .acquired) (hidle : s.seq = .idle) :
    WriteRequesting addr data s
      (afterPrims 0 (writeSetup s.cfg (addrOf addr) (byteOf data)) (beginOp (.memWrite addr data) s)) := by
  obtain ⟨hbegin, hprog⟩ := (writeOp_memWrite s.cfg addr data).begins hs hown hidle
  obtain ⟨a, ha⟩ : ∃ a, a = addrOf addr := ⟨_, rfl⟩
  obtain ⟨d, hd⟩ : ∃ d, d = byteOf data := ⟨_, rfl⟩
  rw [← ha, ← hd] at hprog ⊢
  have hprims := fun p hp => (writeSetup_unrequesting s.cfg a d p hp).cyclePrim
  have hheld := hbegin.afterPrims hprog.left
  have hcalm := hbegin.calm hprog.left hprims (by rw [writeSetup_length]; rfl)
  have hout := afterPrims_out 0 (writeSetup s.cfg a d) (beginOp (.memWrite addr data) s)
  have henv := afterPrims_env 0 (writeSetup s.cfg a d) (beginOp (.memWrite addr data) s)
  have htrace := afterPrims_trace (fun p hp => (hprims p hp).unread) 0 (beginOp (.memWrite addr data) s)
  rw [beginOp_cfg, writeSetup_out] at hout
  rw [writeSetup_length] at hheld henv
  rw [writeSetup_events] at htrace
  refine ⟨hheld, ⟨hcalm.target, hcalm.ioc⟩, afterPrims_records .., henv, ?_, ?_, ?_⟩
  · rw [hout, ← ha]
    exact ShowsAddr.setPin hs.params.1 ⟨rfl, rfl⟩ _ _
  · rw [hout, ← hd]
    exact get_busPort_setPin hs.params.1 (p := .dataLo) (.inr (.inr rfl)) _ _ _
  · rw [htrace, ← ha, ← hd, List.append_assoc]
    rfl

/-- `MEM_WRITE(addr, data)` writes the cell that the address reaches, once (R113). -/
theorem memWrite_done (hs : Good s) (hown : s.own = .acquired) (hidle : s.seq = .idle) :
    WriteDone .mreq (addrOf addr) (byteOf data) (stored s.cfg (addrOf addr) (byteOf data) s.target) s
      (afterWriteCycle (.memWrite addr data) .mreq (addrOf addr) (byteOf data) s) := by
  have hop := writeOp_memWrite s.cfg addr data
  have hu := memWrite_requesting (addr := addr) (data := data) hs hown hidle
  obtain ⟨_, hprog⟩ := hop.begins hs hown hidle
  obtain ⟨u, hudef⟩ : ∃ u, u = afterPrims 0 (writeSetup s.cfg (addrOf addr) (byteOf data))
    (beginOp (.memWrite addr data) s) := ⟨_, rfl⟩
  obtain ⟨v, hv⟩ : ∃ v, v = afterPrim 5 (.assert .mreq) u := ⟨_, rfl⟩
  have hlast : afterPrims 0 (writePrims s.cfg .mreq (addrOf addr) (byteOf data)) (beginOp (.memWrite addr data) s) =
      afterPrims 6 [.deassert .mreq, .deassert .wr, .float .data] v := by
    rw [writePrims, afterPrims_append, writeSetup_length, ← hudef, hv]
    rfl
  rw [← hudef] at hu
  have hcfg : u.cfg = s.cfg := hu.records.flags.1
  have hrest : PrimsAt (programOf u.cfg (.memWrite addr data)) 5
      (.assert .mreq :: [.deassert .mreq, .deassert .wr, .float .data]) := by
    intro j p hj
    have h := hprog (5 + j) p (by
      rw [writePrims, List.getElem?_append_right (by rw [writeSetup_length]; omega), writeSetup_length]
      simpa using hj)
    rw [hcfg]
    simpa using h
  obtain ⟨pos, hline⟩ := hrest.head
  have hrequest := hu.held.memWriteRequest ⟨pos, hline⟩ hu.shown hu.byte
  have hheldv := hu.held.afterPrim hline
  rw [← hv] at hrequest hheldv
  have hcfgv : v.cfg = u.cfg := by rw [hv, afterPrim_cfg]
  have hend := hheldv.calm (by rw [hcfgv]; exact hrest.tail) (writeEnd_cyclePrim (.inl rfl)) rfl
  refine hop.done hs hown hidle ?_
  rw [hlast]
  refine Calm.trans ⟨?_, hrequest.ioc.trans hu.calm.ioc⟩ hend
  rw [hrequest.target]
  dsimp only
  rw [hcfg, hu.calm.target, stored_world]

end

/-- Settles O15: MREQ's assertion is the one line at which the memory device takes a byte. -/
theorem memWriteCompletes : Obligations.MemWriteCompletes := by
  intro s a d ⟨hgood, hown, hidle, hsound⟩ ha hd
  obtain ⟨t, ht⟩ := (exec_of_idle (i := .memWrite a d) ⟨ha, hd⟩ hidle).1.mpr ((acquired_iff s).mpr hown)
  obtain rfl := ((writeOp_memWrite s.cfg a d).exec_cases ht).resolve_right fun h => h.not_sound hsound
  have hdone := memWrite_done (addr := a) (data := d) hgood hown hidle
  obtain ⟨htarget, hmem, hio, hbank⟩ := hdone.calm.kept
  rw [stored_eq] at htarget hio hbank
  refine ⟨_, ht, hdone.returned, ⟨hdone.flags, hdone.calm.ioc, hdone.dir, htarget⟩, hdone.result, hio, hbank, hdone.out,
    hdone.trace, fun c => ?_⟩
  rw [hmem]
  exact stored_value s _ _ c

/-- Settles O17: IORQ's assertion is the one line at which the IO devices see a write. -/
theorem ioWriteCompletes : Obligations.IoWriteCompletes := by
  intro s a d ⟨hgood, hown, hidle, hsound⟩ ha hd
  have hop := writeOp_ioWrite s.cfg a d
  obtain ⟨t, ht⟩ := (exec_of_idle (i := .ioWrite a d) ⟨ha, hd⟩ hidle).1.mpr ((acquired_iff s).mpr hown)
  obtain rfl := (hop.exec_cases ht).resolve_right fun h => h.not_sound hsound
  have hdone := hop.io_done hgood hown hidle
  obtain ⟨htarget, hmem, hio, hbank⟩ := hdone.calm.kept
  exact ⟨_, ht, hdone.returned, ⟨hdone.flags, hdone.calm.ioc, hdone.dir, htarget⟩, hdone.result, hmem, hio, hbank,
    hdone.out, hdone.trace⟩

/-- Settles O18: its program is that of an IO write to `BANK_SELECT_PORT`. -/
theorem bankSelectCompletes : Obligations.BankSelectCompletes := by
  intro s b ⟨hgood, hown, hidle, hsound⟩ hb
  have hop := writeOp_bankSelect s.cfg b
  obtain ⟨t, ht⟩ := (exec_of_idle (i := .bankSelect b) hb hidle).1.mpr ((acquired_iff s).mpr hown)
  obtain rfl := (hop.exec_cases ht).resolve_right fun h => h.not_sound hsound
  have hdone := hop.io_done hgood hown hidle
  obtain ⟨htarget, hmem, hio, hbank⟩ := hdone.calm.kept
  exact ⟨_, ht, hdone.returned, ⟨hdone.flags, hdone.calm.ioc, hdone.dir, htarget⟩, hdone.result, hmem, hio,
    hbank.trans (if_pos rfl), hdone.out, hdone.trace⟩

/-! ### The aborted request -/

section
variable {prog : List ProgLine} {i : Instr} {k : Nat} {s : State}

/-- Lines before which the boundaries are idle are done, whatever the script says afterwards. -/
theorem reaches_prims_of_idle (hscope : scopeHandler i = none) {ps : List Prim} (hq : s.seq = .running i k)
    (hprog : PrimsAt prog k ps) (hidle : IdleFor ps.length s) : Reaches prog ps.length s (afterPrims k ps s) := by
  induction ps generalizing k s with
  | nil => exact .refl
  | cons p ps ih =>
    obtain ⟨pos, hl⟩ := hprog.head
    have hok : (boundary s).2 = .ok := by rw [hidle.boundary]
    have hq' := afterPrim_seq hq p
    have htick : tick prog s = afterPrim k p s :=
      (tick_line hq hl).trans (access_ok (k := fun t => advance k ⟨pos, .prim p, none⟩ (perform p t))
        (untaken_of_scopeless hscope hq) hok)
    rw [List.length_cons, Nat.add_comm]
    refine (Reaches.next hq htick hq' (Nat.lt_succ_self k)).trans (ih hq' hprog.tail ?_)
    exact IdleFor.drop (n := 1) (by rwa [Nat.add_comm]) (by rw [afterPrim_env, List.drop_one])

/-- A line whose access the transport fails ends an operation without a scope (R184). -/
theorem reaches_abort (hscope : scopeHandler i = none) {p : Prim} {pos : Pos} {n : Nat} (hq : s.seq = .running i k)
    (hl : prog[k]? = some ⟨pos, .prim p, none⟩) (hf : (boundary s).2 = .abort n) :
    Reaches prog 1 s (raiseFault (.transportAbort p pos) (abortEffect p n (boundary s).1)) := by
  have hq' : (boundary s).1.seq = .running i k := (boundary_kept s).seq.trans hq
  have hu : (cancellable (boundary s).1.seq && (boundary s).1.cancel) = false := untaken_of_scopeless hscope hq
  refine .ended hq ((tick_line hq hl).trans ?_) (raiseFault_ends hscope ((abortEffect_kept p n _).seq.trans hq') _).1
  simp only [doLine, access, hu, hf, Bool.false_eq_true, if_false]

end

/-- An aborted assertion changes no direction, and no line but its own signal's (R184). -/
theorem abortEffect_assert {s : State} (hc : s.cfg.pins.WellFormed) {g : Signal}
    (hout : isOutput s (s.cfg.pins.pin g) = true) (hoff : asserts s g = false) (n : Nat) :
    (abortEffect (.assert g) n s).dir = s.dir ∧
      (∀ h, h ≠ g → line (abortEffect (.assert g) n s) h = line s h) ∧
      (line (abortEffect (.assert g) n s) g = .asserted ↔ 0 < n) ∧ (n = 0 → abortEffect (.assert g) n s = s) := by
  cases n with
  | zero =>
    have hnot : line s g ≠ .asserted := fun e => by rw [asserts, e] at hoff; cases hoff
    exact ⟨rfl, fun _ _ => rfl, iff_of_false hnot (Nat.lt_irrefl 0), fun _ => rfl⟩
  | succ n =>
    have heff : abortEffect (.assert g) (n + 1) s =
        applyWrite s (.outPin (s.cfg.pins.pin g) (assertedLevel s.cfg g)) := by
      simp [abortEffect, writesOf, applyWrites]
    have hlines : SameLines (storeWrite (.outPin (s.cfg.pins.pin g) (assertedLevel s.cfg g)) s)
        (abortEffect (.assert g) (n + 1) s) := by
      rw [heff]
      exact .of_registers (react_board s _).kept.cfg (applyWrite_dir ..) (applyWrite_out ..)
    refine ⟨by rw [heff, applyWrite_dir]; rfl, fun h hne => ?_, ?_, nofun⟩
    · exact (hlines.line h).trans (line_setPin_other hc _ hne)
    · have hline := (hlines.line g).trans (line_setPin_same (assertedLevel s.cfg g) hout)
      rw [if_pos rfl] at hline
      simp [hline]

/-- Settles O45: five lines are done, and the sixth aborts with DATA driven and WR asserted. -/
theorem abortedWriteLeavesBusDriven : Obligations.AbortedWriteLeavesBusDriven := by
  intro s a d n rest hgood hown hidle ha hd hfail henv
  have hop := writeOp_memWrite s.cfg a d
  have hu := memWrite_requesting (addr := a) (data := d) hgood hown hidle
  obtain ⟨_, hprog⟩ := hop.begins hgood hown hidle
  have hreach := reaches_prims_of_idle hop.scope (ps := writeSetup s.cfg (addrOf a) (byteOf d))
    (s := beginOp (.memWrite a d) s) rfl hprog.left
    (idleFor_of_replicate (m := 5) henv (by rw [writeSetup_length]))
  rw [writeSetup_length, beginOp_cfg] at hreach
  obtain ⟨u, hudef⟩ : ∃ u, u = afterPrims 0 (writeSetup s.cfg (addrOf a) (byteOf d)) (beginOp (.memWrite a d) s) :=
    ⟨_, rfl⟩
  rw [← hudef] at hu hreach
  have hcfg : u.cfg = s.cfg := hu.records.flags.1
  have hfate : (boundary u).2 = .abort n := by
    rw [boundary_cons (l := ⟨[], .abort n⟩) (r := rest) (by rw [hu.env, henv]; rfl), hcfg]
    simp [fateOf, hfail]
  have hline : (programOf s.cfg (.memWrite a d))[5]? = some ⟨⟨.memWrite, 3, 0⟩, .prim (.assert .mreq), none⟩ := by
    rw [hop.program]
    unfold writeCycle latchLines
    cases s.cfg.addrPortOrder <;> rfl
  have habort := reaches_abort hop.scope hu.held.seq hline hfate
  have hexec := exec_of_reaches (i := .memWrite a d) ⟨ha, hd⟩ hidle ((acquired_iff s).mpr hown) (hreach.trans habort)
    (by rw [henv]; simp; omega) (raiseFault_ends hop.scope
      ((abortEffect_kept _ n _).seq.trans hu.held.boundary.seq) _).1
  have hb := hu.held.boundary
  have hw := hu.held.worldOnly
  obtain ⟨_, _, hstrobes, _⟩ := hb.good.busHeld hb.own
  obtain ⟨_, _, hdata⟩ := hb.good.floating
  rw [hb.seq, if_pos (by rfl)] at hdata
  have hwr : line (boundary u).1 .wr = .asserted := asserts_iff.mp (hb.asserts (by decide))
  obtain ⟨hdir, hothers, hmreq, hnone⟩ :=
    abortEffect_assert hb.good.params.1 (hstrobes .mreq (by decide)) (hb.asserts (by decide)) n
  have hkept := abortEffect_kept (.assert .mreq) n (boundary u).1
  have hlines (f : Fault) := raiseFault_sameLines f (abortEffect (.assert .mreq) n (boundary u).1)
  refine ⟨_, hexec, (raiseFault_ends hop.scope (hkept.seq.trans hb.seq) _).1, rfl, hkept.own.trans hb.own, ?_, ?_, ?_, ?_,
    fun h0 => ?_⟩
  · rw [dataDriven, raiseFault_dir, raiseFault_cfg, hdir, hkept.cfg]
    exact hdata
  · rw [(hlines _).line, hothers _ (by decide)]
    exact hwr
  · rw [(hlines _).line]
    exact hmreq
  · rw [raiseFault_trace, abortEffect_trace, hw.trace, hu.trace]
  · rw [raiseFault_target, hnone h0, hw.target, hu.calm.target]

end Sys2Proof.Machine
end

section
/-! A byte written and read back (R120): what the operations between the two can do, with the bus held all the time. -/

namespace Sys2Proof.Machine

/-! ### What a line comes to -/

/-- A move of the sequencer from `s` to `t` on a line that does `m`: the hardware and the records stay, and `own` is as the
line says. -/
structure Moved (m : Micro) (s t : State) : Prop where
  hardware : SameHardware s t
  fault : t.fault = s.fault
  raised : t.raised = s.raised
  killed : t.killed = s.killed
  own : t.own = s.own ∨ m = .own t.own

theorem Moved.of_eq {m : Micro} {s t : State} (hw : SameHardware s t) (hfault : t.fault = s.fault)
    (hraised : t.raised = s.raised) (hkilled : t.killed = s.killed) (hown : t.own = s.own) : Moved m s t :=
  ⟨hw, hfault, hraised, hkilled, .inl hown⟩

theorem moved_advance (m : Micro) (k : Nat) (l : ProgLine) (s : State) : Moved m s (advance k l s) :=
  .of_eq ⟨rfl, rfl, rfl, rfl, rfl⟩ rfl rfl rfl rfl

/-- A line that has come from `s` to `t` unharmed: the environment has led to `u`, the line's access, if it was made, to `v`,
and the sequencer has moved. -/
structure Passed (m : Micro) (s u v t : State) : Prop where
  env : EnvKept s u
  world : OffBus s → WorldOnly s u
  access : v = u ∨ ∃ p, accessOf m = some p ∧ v = perform p u
  moved : Moved m v t

/-- A fault or a kill has struck, or the line is passed. -/
def LineEnds (m : Micro) (s t : State) : Prop := Harmed t ∨ ∃ u v, Passed m s u v t

section
variable {m : Micro} {k : Nat} {l : ProgLine} {s t : State}

/-- No boundary, no access. -/
theorem LineEnds.of_moved (h : Moved m s t) : LineEnds m s t :=
  .inr ⟨s, s, .refl s, fun _ => .refl s, .inl rfl, h⟩

theorem LineEnds.of_boundary (h : Moved m (boundary s).1 t) : LineEnds m s t :=
  .inr ⟨_, _, boundary_kept s, boundary_offBus, .inl rfl, h⟩

theorem LineEnds.of_boundaries (h : Moved m (boundary (boundary s).1).1 t) : LineEnds m s t :=
  .inr ⟨_, _, (boundary_kept s).trans (boundary_kept _),
    fun o => (boundary_offBus o).trans (boundary_offBus ((boundary_offBus o).offBus o)), .inl rfl, h⟩

theorem pollFailed_ends (w : Wait) (c : Option Nat) (s : State) :
    Harmed (pollFailed w c s) ∨ Moved m s (pollFailed w c s) := by
  have hcount : Moved m s { s with polls := s.polls + 1 } := .of_eq ⟨rfl, rfl, rfl, rfl, rfl⟩ rfl rfl rfl rfl
  have htime : Harmed (timeOut w c s) ∨ Moved m s (timeOut w c s) := by
    rcases timeOut_cases w c s with ⟨j, _, e⟩ | ⟨_, e⟩ <;> rw [e]
    · exact .inr (.of_eq ⟨rfl, rfl, rfl, rfl, rfl⟩ rfl rfl rfl rfl)
    · exact .inl (.inl nofun)
  unfold pollFailed
  split
  · exact .inr hcount
  · split
    · exact htime
    · exact .inr hcount

/-- A line with an access: what follows the access decides. -/
theorem access_ends {p : Prim} (hp : accessOf m = some p) (pos : Pos) {f : State → State}
    (hf : ∀ b, Harmed (f b) ∨ Moved m (perform p b) (f b)) (s : State) : LineEnds m s (access p pos f s) := by
  rcases access_cases p pos f s with ⟨_, e⟩ | ⟨_, ⟨_, e⟩ | ⟨n, _, e⟩ | ⟨_, e⟩⟩ <;> rw [e]
  · exact .of_boundary (.of_eq ⟨rfl, rfl, rfl, rfl, rfl⟩ rfl rfl rfl rfl)
  · exact (hf _).imp_right fun h => ⟨_, _, boundary_kept s, boundary_offBus, .inr ⟨p, hp, rfl⟩, h⟩
  · exact .inl (.inl nofun)
  · exact .inl (.inr rfl)

/-- A poll's line: the sample is the last, or the poll repeats it or times out (R98). -/
theorem sampled_ends (p : Prim) (ready : Prop) [Decidable ready] (w : Wait) (c : Option Nat) (s : State) :
    Harmed (if ready then advance k l (perform p s) else pollFailed w c (perform p s)) ∨
      Moved m (perform p s) (if ready then advance k l (perform p s) else pollFailed w c (perform p s)) := by
  split
  · exact .inr (moved_advance m k l _)
  · exact pollFailed_ends w c _

theorem sleepFor_ends (d : State → Quantity) (s : State) : LineEnds m s (sleepFor d (advance k l) s) := by
  rcases sleepFor_cases d (advance k l) s with e | e | e | e | e <;> rw [e]
  · exact .of_boundary (.of_eq ⟨rfl, rfl, rfl, rfl, rfl⟩ rfl rfl rfl rfl)
  · exact .inl (.inr rfl)
  · exact .of_boundaries (.of_eq ⟨rfl, rfl, rfl, rfl, rfl⟩ rfl rfl rfl rfl)
  · exact .inl (.inr rfl)
  · exact .of_boundaries (.of_eq ⟨rfl, rfl, rfl, rfl, rfl⟩ rfl rfl rfl rfl)

/-- ALL THAT A LINE CAN COME TO. -/
theorem doLine_ends (k : Nat) (l : ProgLine) (s : State) : LineEnds l.micro s (doLine k l s) := by
  unfold doLine
  cases hm : l.micro with
  | prim p => exact access_ends (p := p) rfl l.pos (fun b => .inr (moved_advance _ k l _)) s
  | readData =>
    dsimp only
    refine access_ends (m := .readData) (p := .samplePort .dataLo) rfl l.pos (fun b => .inr ?_) s
    exact .of_eq ⟨rfl, rfl, rfl, rfl, rfl⟩ rfl rfl rfl rfl
  | poll g want w c => exact access_ends (p := .sample g) rfl l.pos (fun b => sampled_ends _ _ w c b) s
  | pollFlag => exact access_ends (p := .iocFlag .m1) rfl l.pos (fun b => sampled_ends _ _ .flagWait none b) s
  | sleep | pace => exact sleepFor_ends _ s
  | stampT0 | mode | disarmed | ret => exact .of_moved (.of_eq ⟨rfl, rfl, rfl, rfl, rfl⟩ rfl rfl rfl rfl)
  | own o => exact .of_moved ⟨⟨rfl, rfl, rfl, rfl, rfl⟩, rfl, rfl, rfl, .inr rfl⟩
  | fail f => exact .inl (.inl nofun)
  | armed =>
    rcases settle_cases (fun t => advance k l (setArmed t)) s with ⟨_, e⟩ | ⟨_, e⟩ <;> simp only [e]
    · exact .inl (.inr rfl)
    · exact .of_boundary (.of_eq ⟨rfl, rfl, rfl, rfl, rfl⟩ rfl rfl rfl rfl)
  | whileArmed exit =>
    dsimp only
    split <;> exact .of_moved (.of_eq ⟨rfl, rfl, rfl, rfl, rfl⟩ rfl rfl rfl rfl)

/-- The records along a line that is passed. -/
theorem Passed.records {u v : State} (h : Passed m s u v t) :
    t.fault = s.fault ∧ t.raised = s.raised ∧ t.killed = s.killed ∧ (t.own = s.own ∨ m = .own t.own) := by
  have hv : v.fault = u.fault ∧ v.raised = u.raised ∧ v.killed = u.killed ∧ v.own = u.own := by
    rcases h.access with e | ⟨p, _, e⟩ <;> rw [e]
    · exact ⟨rfl, rfl, rfl, rfl⟩
    · have hp := perform_kept p u
      exact ⟨hp.fault, hp.raised, hp.killed, hp.own⟩
  obtain ⟨hfault, hraised, hkilled, hown⟩ := hv
  have he := h.env
  have hm := h.moved
  exact ⟨hm.fault.trans (hfault.trans he.fault), hm.raised.trans (hraised.trans he.raised),
    hm.killed.trans (hkilled.trans he.killed), hm.own.imp_left fun e => e.trans (hown.trans he.own)⟩

/-- A line that is passed with the bus held, and that leaves the windows shut, leaves the target's stores. -/
theorem Passed.stores {u v : State} (h : Passed m s u v t) (hoff : OffBus s) (hpins : s.cfg.pins.WellFormed)
    (hprog : ∀ p, accessOf m = some p → Programmed p) (hshut : Shut t) : StoresKept s t := by
  have hworld := h.world hoff
  have hhard := h.moved.hardware
  rw [StoresKept, hhard.target]
  rcases h.access with rfl | ⟨p, hp, rfl⟩
  · rw [hworld.target]
    exact ⟨rfl, rfl, rfl⟩
  · have hback : SameLines (perform p u) t := .of_registers hhard.cfg hhard.dir hhard.out
    obtain ⟨hmem, hio, hbank⟩ := perform_shut_stores (by rw [hworld.cfg]; exact hpins) (hprog p hp) (hback.shut hshut)
    have htarget := hworld.target
    exact ⟨hmem.trans (by rw [htarget]), hio.trans (by rw [htarget]), hbank.trans (by rw [htarget])⟩

/-- A tick carries out a line, or returns. -/
theorem tick_ends {prog : List ProgLine} {i : Instr} (hq : s.seq = .running i k) :
    ∃ m, (∀ o, m = .own o → ∃ l ∈ prog, l.micro = .own o) ∧ (∀ p, accessOf m = some p → ∃ l ∈ prog, accessOf l.micro = some p) ∧
      LineEnds m s (tick prog s) := by
  cases hl : prog[k]? with
  | some l =>
    rw [tick_line hq hl]
    have hmem := List.mem_of_getElem? hl
    exact ⟨l.micro, fun o ho => ⟨l, hmem, ho⟩, fun p hp => ⟨l, hmem, hp⟩, doLine_ends k l s⟩
  | none =>
    rw [tick_end hq hl]
    exact ⟨.ret, nofun, nofun, .of_moved (.of_eq ⟨rfl, rfl, rfl, rfl, rfl⟩ rfl rfl rfl rfl)⟩

/-- A fault or a kill of the operation in progress stays on record until its end. -/
theorem Harmed.tick {prog : List ProgLine} {i : Instr} (hq : s.seq = .running i k) (h : Harmed s) :
    Harmed (tick prog s) := by
  obtain ⟨m, _, _, hharmed | ⟨u, v, hpassed⟩⟩ := tick_ends (prog := prog) hq
  · exact hharmed
  · obtain ⟨_, hraised, hkilled, _⟩ := hpassed.records
    rwa [Harmed, hraised, hkilled]

end

/-! ### Operations that leave the target's stores -/

/-- The operation asserts no request strobe, and with the bus held it keeps it. -/
def sparesStores : Instr → Bool
  | .latchAddress _ | .takeBus | .normalClock | .slowClock _ | .singlestepOn | .singlestepOff | .autostep _ | .stepWait
  | .m1ReleaseWait => true
  | _ => false

section
variable {i : Instr}

theorem closedAt_of_spares (h : sparesStores i = true) (k : Nat) : closedAt (.running i k) = true := by
  cases i with
  | reset | takeBusBank | releaseBus | memRead | memWrite | ioRead | ioWrite | bankSelect => cases h
  | _ => rfl

theorem keepsBus_of_spares (h : sparesStores i = true) : keepsBus i = true := by
  cases i with
  | reset | releaseBus => cases h
  | _ => rfl

/-- The line does not give the bus up. -/
def keepsOwn : Micro → Bool
  | .own .released => false
  | _ => true

theorem keepsOwn_of_spares (h : sparesStores i = true) (c : Params) :
    ((programOf c i).all fun l => keepsOwn l.micro) = true := by
  cases i with
  | reset | takeBusBank | releaseBus | memRead | memWrite | ioRead | ioWrite | bankSelect => cases h
  | latchAddress a =>
    unfold programOf latchAddressProgram latchLines
    cases c.addrPortOrder <;> rfl
  | _ => rfl

theorem own_of_spares (h : sparesStores i = true) {c : Params} {l : ProgLine} (hl : l ∈ programOf c i)
    {o : BusOwnership} (ho : l.micro = .own o) : o = .acquired := by
  have hkeeps := List.all_eq_true.mp (keepsOwn_of_spares h c) l hl
  rw [ho] at hkeeps
  cases o with
  | acquired => rfl
  | released => cases hkeeps

/-- A position of such an operation, or none, leaves the windows shut. -/
theorem Good.shut_of_spares {s : State} {k : Nat} (hs : Good s) (hown : s.own = .acquired) (h : sparesStores i = true)
    (hq : s.seq = .idle ∨ s.seq = .running i k) : Shut s := by
  rcases hq with hidle | hq
  · exact (hs.strobesQuiet hidle).shut
  · exact Holding.shut ⟨hs, hown, hq, keepsBus_of_spares h⟩ (closedAt_of_spares h k)

/-- What such an operation keeps, from its beginning in `s`. -/
structure Spared (i : Instr) (s t : State) : Prop where
  good : Good t
  own : t.own = .acquired
  cfg : t.cfg = s.cfg
  seq : t.seq = .idle ∨ ∃ k, t.seq = .running i k
  stores : StoresKept s t

theorem Spared.tick {s u : State} {k : Nat} (hspares : sparesStores i = true) (h : Spared i s u)
    (hq : u.seq = .running i k) : Harmed (tick (programOf s.cfg i) u) ∨ Spared i s (tick (programOf s.cfg i) u) := by
  have hheld : Holding i k u := ⟨h.good, h.own, hq, keepsBus_of_spares hspares⟩
  rw [← h.cfg]
  obtain ⟨m, howns, haccess, hharmed | ⟨v, w, hpassed⟩⟩ := tick_ends (prog := programOf u.cfg i) hq
  · exact .inl hharmed
  right
  obtain ⟨t, ht⟩ : ∃ t, t = Machine.tick (programOf u.cfg i) u := ⟨_, rfl⟩
  obtain ⟨hfault, _, hkilled, hown⟩ := hpassed.records
  have hgood := (h.good.tick hq (hfault.trans h.good.noFault) (hkilled.trans h.good.alive)).1
  have hstays := runStays_law.tick (programOf_programmed u.cfg i) u
  rw [← ht] at hpassed hown hgood hstays ⊢
  have hown' : t.own = .acquired := by
    rcases hown with e | hm
    · exact e.trans h.own
    · obtain ⟨l, hl, hlm⟩ := howns _ hm
      exact own_of_spares hspares hl hlm
  have hseq : t.seq = .idle ∨ ∃ j, t.seq = .running i j := by
    rcases hstays.seq with hidle | ⟨_, _, j, hu, hj⟩
    · exact .inl hidle
    · rw [hq] at hu
      cases hu
      exact .inr ⟨j, hj⟩
  have hshut : Shut t := by
    rcases hseq with hidle | ⟨j, hj⟩
    · exact hgood.shut_of_spares (k := 0) hown' hspares (.inl hidle)
    · exact hgood.shut_of_spares hown' hspares (.inr hj)
  have hstores : StoresKept u t := by
    refine hpassed.stores hheld.offBus h.good.params.1 (fun p hp => ?_) hshut
    obtain ⟨l, hl, hlp⟩ := haccess p hp
    exact programOf_programmed u.cfg i l hl p hlp
  obtain ⟨hmem, hio, hbank⟩ := h.stores
  obtain ⟨hmem', hio', hbank'⟩ := hstores
  exact ⟨hgood, hown', hstays.cfg.trans h.cfg, hseq, hmem'.trans hmem, hio'.trans hio, hbank'.trans hbank⟩

/-- SUCH AN OPERATION, UNHARMED, leaves memory, the IO devices' history and the bank, whatever the environment does. -/
theorem exec_spared {s t : State} (hs : Good s) (hown : s.own = .acquired) (hspares : sparesStores i = true)
    (h : exec i s = .next t) : Harmed t ∨ Spared i s t := by
  have hallowed := allowed_of_exec h
  obtain ⟨_, hidle, rfl⟩ := exec_next h
  have hbegin : Spared i s (beginOp i s) :=
    ⟨(hs.beginOp hidle hallowed).1, hown, rfl, .inr ⟨0, rfl⟩, rfl, rfl, rfl⟩
  refine runProg_induct (P := fun u => Harmed u ∨ Spared i s u) ?_ _ (.inr hbegin)
  rintro u j k hq (hharmed | hspared)
  · exact .inl (hharmed.tick hq)
  · rcases hspared.seq with hidle' | ⟨k', hk'⟩
    · cases hq.symm.trans hidle'
    · exact hspared.tick hspares hk'

end

/-! ### Between the write and the read -/

/-- The operation changes neither the bank nor the cell `c`, as the addresses reach the cells in `s` (R120). -/
def LeavesCell (s : State) (c : Nat) : Instr → Prop
  | .memWrite b _ => cellAt s (addrOf b) ≠ some (c, true)
  | .ioWrite b _ => addrOf b ≠ s.cfg.bankSelectPort
  | .takeBusBank _ | .bankSelect _ | .releaseBus _ | .reset => False
  | _ => True

/-- The bus is held, the addresses reach the cells as in `s`, and the cell `c` holds `v`. -/
structure CellHolds (s : State) (c : Nat) (v : Byte) (t : State) : Prop where
  good : Good t
  own : t.own = .acquired
  cfg : t.cfg = s.cfg
  bank : t.target.bank = s.target.bank
  value : t.target.mem.value c = v

section
variable {s t u : State} {c : Nat} {v : Byte} {i : Instr}

theorem CellHolds.cellAt (h : CellHolds s c v t) (a : Addr) : cellAt t a = cellAt s a := by
  unfold Machine.cellAt
  rw [h.cfg, h.bank]

theorem Disturbed.harmed (h : Disturbed s t) : Harmed t := h.imp And.left And.left

/-- An operation that keeps the flags, the bank and the cell. -/
theorem CellHolds.next (h : CellHolds s c v u) (hexec : exec i u = .next t) (hflags : FlagsKept u t)
    (hbank : t.target.bank = u.target.bank) (hvalue : t.target.mem.value c = u.target.mem.value c) : CellHolds s c v t := by
  obtain ⟨hcfg, hown, _, _, hfault, hkilled, _⟩ := hflags
  exact ⟨(h.good.exec hexec (hfault.trans h.good.noFault) (hkilled.trans h.good.alive)).1, hown.trans h.own,
    hcfg.trans h.cfg, hbank.trans h.bank, hvalue.trans h.value⟩

/-- An operation that leaves the cell leaves it, whatever the environment does (R120). -/
theorem CellHolds.exec (h : CellHolds s c v u) (hleaves : LeavesCell s c i) (hexec : exec i u = .next t)
    (hunharmed : ¬ Harmed t) : CellHolds s c v t := by
  have hidle : u.seq = .idle := (exec_next hexec).2.1
  have hspared (hspares : sparesStores i = true) : CellHolds s c v t := by
    have hs := (exec_spared h.good h.own hspares hexec).resolve_left hunharmed
    obtain ⟨hmem, _, hbank⟩ := hs.stores
    exact ⟨hs.good, hs.own, hs.cfg.trans h.cfg, hbank.trans h.bank, by rw [hmem]; exact h.value⟩
  cases i with
  | memRead a =>
    obtain rfl := ((readOp_memRead a).exec_cases hexec).resolve_right fun hd => hunharmed hd.harmed
    have hdone := memRead_done (addr := a) h.good h.own hidle
    obtain ⟨_, hmem, _, hbank⟩ := hdone.calm.kept
    exact h.next hexec hdone.flags hbank (by rw [hmem])
  | ioRead a =>
    obtain rfl := ((readOp_ioRead a).exec_cases hexec).resolve_right fun hd => hunharmed hd.harmed
    have hdone := ioRead_done (addr := a) h.good h.own hidle
    obtain ⟨_, hmem, _, hbank⟩ := hdone.calm.kept
    exact h.next hexec hdone.flags hbank (by rw [hmem]; rfl)
  | memWrite a d =>
    obtain rfl := ((writeOp_memWrite u.cfg a d).exec_cases hexec).resolve_right fun hd => hunharmed hd.harmed
    have hdone := memWrite_done (addr := a) (data := d) h.good h.own hidle
    obtain ⟨_, hmem, _, hbank⟩ := hdone.calm.kept
    rw [stored_eq] at hbank
    refine h.next hexec hdone.flags hbank ?_
    rw [hmem]
    exact (stored_value u _ _ c).trans (if_neg (by rw [h.cellAt]; exact hleaves))
  | ioWrite a d =>
    have hop := writeOp_ioWrite u.cfg a d
    obtain rfl := (hop.exec_cases hexec).resolve_right fun hd => hunharmed hd.harmed
    have hdone := hop.io_done h.good h.own hidle
    obtain ⟨_, hmem, _, hbank⟩ := hdone.calm.kept
    refine h.next hexec hdone.flags (hbank.trans (if_neg ?_)) (by rw [hmem]; rfl)
    rw [h.cfg]
    exact hleaves
  | takeBusBank | bankSelect | releaseBus | reset => exact hleaves.elim
  | _ => exact hspared rfl

/-- The first of several operations, and the state it leads to. -/
theorem runAll_cons {l : List Instr} (h : runAll (i :: l) s = some t) :
    ∃ u, exec i s = .next u ∧ u.seq = .idle ∧ u.raised = none ∧ u.killed = s.killed ∧ runAll l u = some t := by
  unfold runAll at h
  split at h
  · next u hu =>
    split at h
    · next hend =>
      obtain ⟨hidle, hraised, hkilled⟩ := hend
      exact ⟨u, hu, hidle, hraised, hkilled, h⟩
    · cases h
  all_goals cases h

theorem not_harmed (hraised : t.raised = none) (hkilled : t.killed = false) : ¬ Harmed t := by
  simp [Harmed, hraised, hkilled]

theorem CellHolds.runAll {l : List Instr} (h : CellHolds s c v u) (hleaves : ∀ i ∈ l, LeavesCell s c i)
    (hrun : runAll l u = some t) : CellHolds s c v t := by
  induction l generalizing u with
  | nil =>
    cases hrun
    exact h
  | cons i l ih =>
    obtain ⟨w, hexec, _, hraised, hkilled, hrest⟩ := runAll_cons hrun
    have hunharmed := not_harmed hraised (hkilled.trans h.good.alive)
    exact ih (h.exec (hleaves i (List.mem_cons_self ..)) hexec hunharmed)
      (fun x hx => hleaves x (List.mem_cons_of_mem _ hx)) hrest

end

/-- Settles O19: the write puts the byte in the cell, each operation between leaves it there and the bank as it was, and the
read samples the cell. -/
theorem writeThenRead : Obligations.WriteThenRead := by
  intro s t a v c between hgood hown hidle ha hv hcell hbetween hrun
  obtain ⟨w, hwrite, _, hraised, hkilled, hrest⟩ := runAll_cons hrun
  have hwritten : CellHolds s c (byteOf v) w := by
    obtain rfl := ((writeOp_memWrite s.cfg a v).exec_cases hwrite).resolve_right fun hd =>
      not_harmed hraised (hkilled.trans hgood.alive) hd.harmed
    have hdone := memWrite_done (addr := a) (data := v) hgood hown hidle
    obtain ⟨_, hmem, _, hbank⟩ := hdone.calm.kept
    rw [stored_eq] at hbank
    obtain ⟨hcfg, hown', _, _, hfault, hkilled', _⟩ := hdone.flags
    refine ⟨(hgood.exec hwrite (hfault.trans hgood.noFault) (hkilled'.trans hgood.alive)).1, hown'.trans hown, hcfg, hbank, ?_⟩
    rw [hmem]
    exact (stored_value s _ _ c).trans (if_pos hcell)
  obtain ⟨u, hu, hread, _, hraised', hkilled'⟩ := runAll_last hrest
  have hheld := hwritten.runAll (fun i hi => by
    have h := hbetween i hi
    cases i <;> exact h) hu
  obtain rfl := ((readOp_memRead a).exec_cases hread).resolve_right fun hd =>
    not_harmed hraised' (hkilled'.trans hheld.good.alive) hd.harmed
  have hidle' : u.seq = .idle := (exec_next hread).2.1
  rw [(memRead_done (addr := a) hheld.good hheld.own hidle').result,
    sampledByte_memRead hheld.good hheld.own hidle' ((hheld.cellAt _).trans hcell), hheld.value]

end Sys2Proof.Machine
end

section
/-! Cancellations at boundaries (R192, R193): which boundaries raise one, what a line does with one that is pending, and
the lines of an operation with a scope of its own that none disturbs. -/

namespace Sys2Proof.Machine

/-! ### What raises a cancellation -/

theorem EnvKept.inHandler {s t : State} (h : EnvKept s t) : inHandler t = inHandler s := by
  unfold Machine.inHandler
  rw [h.seq, h.requests]

theorem holdWrite_cancel (s : State) : (holdWrite s).cancel = s.cancel := (holdWrite_board s).kept.cancel

/-- Only the act of the canceller raises a cancellation, and only outside a handler (R193). -/
theorem applyAct_cancel (s : State) (a : EnvAct) :
    (applyAct s a).cancel = (s.cancel || (decide (a = .cancel) && !inHandler s)) := by
  cases a with
  | cancel => cases h : inHandler s <;> simp [applyAct, h]
  | memWrite a v =>
    simp only [applyAct]
    split
    · simpa using (storeByte_board a v s s.draws).kept.cancel
    · simp
  | io x =>
    simp only [applyAct]
    split
    · simpa using (ioAccess_board x s s.draws).kept.cancel
    · simp
  | bank b =>
    simp only [applyAct]
    split
    · simp [holdWrite_cancel]
    · simp
  | grant | resume | m1Assert | m1Deassert | elapse =>
    simp only [applyAct]
    split <;> simp [beginFetch]
  | int | clk | user => simp [applyAct]

/-- Acts that raise no cancellation: none is the canceller's, or a handler runs. -/
theorem applyActs_cancel {s : State} {l : List EnvAct} (h : EnvAct.cancel ∉ l ∨ inHandler s = true) :
    (applyActs s l).cancel = s.cancel := by
  induction l generalizing s with
  | nil => rfl
  | cons a l ih =>
    have hfirst : (applyAct s a).cancel = s.cancel := by
      rw [applyAct_cancel]
      rcases h with h | h
      · have ha : a ≠ .cancel := fun e => h (by simp [e])
        simp [ha]
      · simp [h]
    refine (ih ?_).trans hfirst
    rw [(applyAct_kept s a).inHandler]
    exact h.imp_left fun h hl => h (List.mem_cons_of_mem _ hl)

theorem boundary_cancel {s : State} (h : (∀ l ∈ s.env.head?, EnvAct.cancel ∉ l.acts) ∨ inHandler s = true) :
    (boundary s).1.cancel = s.cancel := by
  cases e : s.env with
  | nil => rw [boundary_nil e]; rfl
  | cons l r =>
    rw [boundary_cons e]
    exact applyActs_cancel (s := { s with env := r }) (h.imp_left fun h => h l (by simp [e]))

theorem boundary_raises {s : State} {r : List Slot} (h : s.env = slotOf .cancel :: r) (hin : inHandler s = false) :
    (boundary s).1.cancel = true := by
  have hact := applyAct_cancel { s with env := r } .cancel
  rw [show inHandler { s with env := r } = false from hin] at hact
  rw [boundary_cons h]
  exact hact.trans (by simp)

/-! ### A pending cancellation -/

/-- A cancellation is taken at the boundary before the line. -/
def CancelTaken (s : State) : Prop := (cancellable (boundary s).1.seq && (boundary s).1.cancel) = true

section
variable {s : State} {p : Prim} {pos : Pos} {d : State → Quantity} {f : State → State}

theorem access_taken (h : CancelTaken s) : access p pos f s = takeCancel (boundary s).1 := if_pos h

theorem sleepFor_taken (h : CancelTaken s) : sleepFor d f s = takeCancel (boundary s).1 := if_pos h

/-- A line with a boundary before it takes the cancellation and does nothing else (R192). -/
theorem doLine_taken (h : CancelTaken s) {l : ProgLine} (hl : (accessOf l.micro).isSome = true ∨ isSleep l.micro = true)
    (k : Nat) : doLine k l s = takeCancel (boundary s).1 := by
  obtain ⟨pos, micro, jump⟩ := l
  cases micro with simp only [doLine]
  | prim | readData | poll | pollFlag => exact access_taken h
  | sleep | pace => exact sleepFor_taken h
  | _ => simp [accessOf, isSleep] at hl

theorem sleepFor_cut (h : Untaken s) (hkill : (boundary s).2 ≠ .kill) (ht : CancelTaken (boundary s).1) :
    sleepFor d f s = takeCancel (emit (.sleep (d (boundary s).1) true) (boundary (boundary s).1).1) := by
  unfold Untaken at h
  unfold CancelTaken at ht
  unfold sleepFor
  simp only [h, hkill, ht, Bool.false_eq_true, if_false, if_true]

end

/-! ### Lines that nothing disturbs -/

/-- Nothing disturbs the lines at the next `n` boundaries: no cancellation is pending or raised, no access fails, and no kill
strikes. -/
structure Unhindered (n : Nat) (s : State) : Prop where
  cancel : s.cancel = false
  sound : Sound s
  acts : ∀ l ∈ s.env.take n, EnvAct.cancel ∉ l.acts

section
variable {n k : Nat} {s t : State}

theorem Unhindered.congr (h : Unhindered n s) (hcfg : t.cfg = s.cfg) (henv : t.env = s.env) (hcancel : t.cancel = s.cancel) :
    Unhindered n t where
  cancel := hcancel.trans h.cancel
  sound := sound_of_drop h.sound hcfg (n := 0) henv
  acts := by rw [henv]; exact h.acts

theorem Unhindered.boundary_cancel (h : Unhindered (n + 1) s) : (boundary s).1.cancel = false := by
  refine (Machine.boundary_cancel (.inl fun l hl => h.acts l ?_)).trans h.cancel
  cases e : s.env <;> simp_all

theorem Unhindered.boundary (h : Unhindered (n + 1) s) : Unhindered n (boundary s).1 where
  cancel := h.boundary_cancel
  sound := (boundary_sound h.sound).2
  acts l hl := by
    rw [boundary_env, ← List.drop_one, List.take_drop, Nat.add_comm] at hl
    exact h.acts l (List.mem_of_mem_drop hl)

theorem Unhindered.untaken (h : Unhindered (n + 1) s) : Untaken s := by
  rw [Untaken, h.boundary_cancel, Bool.and_false]

theorem Unhindered.notKilled (h : Unhindered n s) : (Machine.boundary s).2 ≠ .kill := by
  rw [(boundary_sound h.sound).1]
  exact nofun

theorem Unhindered.afterPrim (h : Unhindered (n + 1) s) (k : Nat) (p : Prim) : Unhindered n (afterPrim k p s) :=
  have hp := perform_kept p (Machine.boundary s).1
  h.boundary.congr hp.cfg hp.env hp.cancel

theorem Unhindered.afterSleep (h : Unhindered (n + 2) s) (k : Nat) (d : Quantity) : Unhindered n (afterSleep k d s) :=
  h.boundary.boundary.congr rfl rfl rfl

variable {prog : List ProgLine} {i : Instr} {pos : Pos}

theorem tick_prim {p : Prim} (hu : Untaken s) (hok : (Machine.boundary s).2 = .ok) (hq : s.seq = .running i k)
    (hl : prog[k]? = some ⟨pos, .prim p, none⟩) : tick prog s = Machine.afterPrim k p s := by
  rw [tick_line hq hl]
  exact access_ok (k := fun t => advance k ⟨pos, .prim p, none⟩ (perform p t)) hu hok

theorem Unhindered.reaches_prim {p : Prim} (h : Unhindered (n + 1) s) (hq : s.seq = .running i k)
    (hl : prog[k]? = some ⟨pos, .prim p, none⟩) : Reaches prog 1 s (Machine.afterPrim k p s) :=
  .next hq (tick_prim h.untaken (boundary_sound h.sound).1 hq hl) (afterPrim_seq hq p) (Nat.lt_succ_self k)

theorem afterSleep_seq_jump (hq : s.seq = .running i k) (j : Nat) (d : Quantity) :
    (Machine.afterSleep j d s).seq = .running i (j + 1) := by
  simp [Machine.afterSleep, jumpTo, emit, (boundary_kept _).seq, hq]

/-- The sleep leads to line `j + 1`. -/
theorem Unhindered.tick_sleep {d : Quantity} {jump : Option Nat} {j : Nat} (h : Unhindered (n + 2) s)
    (hq : s.seq = .running i k) (hl : prog[k]? = some ⟨pos, .sleep d, jump⟩) (hj : jump.getD (k + 1) = j + 1) :
    tick prog s = Machine.afterSleep j d s := by
  rw [tick_line hq hl]
  refine (sleepFor_ok (d := fun _ => d) h.untaken h.notKilled h.boundary.untaken h.boundary.notKilled).trans ?_
  unfold advance Machine.afterSleep
  dsimp only
  rw [hj]

theorem Unhindered.reaches_sleep {d : Quantity} (h : Unhindered (n + 2) s) (hq : s.seq = .running i k)
    (hl : prog[k]? = some ⟨pos, .sleep d, none⟩) : Reaches prog 1 s (Machine.afterSleep k d s) :=
  .next hq (h.tick_sleep hq hl rfl) (afterSleep_seq hq d) (Nat.lt_succ_self k)

end

theorem afterPrim_cancel (k : Nat) (p : Prim) (s : State) : (afterPrim k p s).cancel = (boundary s).1.cancel :=
  (perform_kept p _).cancel

/-! ### `clock_mode` -/

/-- The state after line `k`, an assignment to `clock_mode`. -/
def afterMode (k : Nat) (m : ClockMode) (s : State) : State := jumpTo (k + 1) (setClockMode m s)

theorem afterMode_seq {i : Instr} {k : Nat} {s : State} (hq : s.seq = .running i k) (m : ClockMode) :
    (afterMode k m s).seq = .running i (k + 1) := by
  simp [afterMode, jumpTo, hq]

section
variable (k : Nat) (m : ClockMode) (s : State)

@[simp] theorem afterMode_cfg : (afterMode k m s).cfg = s.cfg := rfl
@[simp] theorem afterMode_out : (afterMode k m s).out = s.out := rfl
@[simp] theorem afterMode_trace : (afterMode k m s).trace = s.trace := rfl
@[simp] theorem afterMode_cancel : (afterMode k m s).cancel = s.cancel := rfl
@[simp] theorem afterMode_env : (afterMode k m s).env = s.env := rfl

end

theorem reaches_mode {prog : List ProgLine} {i : Instr} {k : Nat} {s : State} {pos : Pos} {m : ClockMode}
    (hq : s.seq = .running i k) (hl : prog[k]? = some ⟨pos, .mode m, none⟩) : Reaches prog 1 s (afterMode k m s) :=
  .next hq (tick_line hq hl) (afterMode_seq hq m) (Nat.lt_succ_self k)

end Sys2Proof.Machine
end

section
/-! The lines of the clock operations (R131, R132): they write the latches of CLKEN and CLKOUT and `clock_mode`, and of the
target they reach its clock alone. -/

namespace Sys2Proof.Machine

/-! ### The registers and the records -/

/-- The primitive writes the latch of CLKEN or of CLKOUT. -/
def ClockPrim (p : Prim) : Prop := p = .assert .clken ∨ p = .deassert .clken ∨ ∃ l, p = .clkOut l

/-- What the clock operations leave of the controller's side: all but `clock_mode`, the sequencer's position and the latches
of CLKEN and CLKOUT. -/
structure ClockFrame (s t : State) : Prop where
  records : RecordsKept s t
  arm : t.arm = s.arm
  raised : t.raised = s.raised
  result : t.result = s.result
  dir : t.dir = s.dir
  iocSetup : IocSetupKept s t
  out : ∀ q, q ≠ s.cfg.pins.clken → q ≠ s.cfg.pins.clkout → getPin t.out q = getPin s.out q

section
variable {s t u : State} {p : Prim}

theorem ClockFrame.cfg (h : ClockFrame s t) : t.cfg = s.cfg := by
  obtain ⟨hcfg, _⟩ := h.records
  exact hcfg

theorem ClockFrame.refl (s : State) : ClockFrame s s :=
  ⟨⟨rfl, rfl, rfl, rfl, rfl, rfl, rfl⟩, rfl, rfl, rfl, rfl, ⟨rfl, rfl, rfl⟩, fun _ _ _ => rfl⟩

theorem ClockFrame.trans (h : ClockFrame s t) (k : ClockFrame t u) : ClockFrame s u where
  records := by
    obtain ⟨h1, h2, h3, h4, h5, h6, h7⟩ := h.records
    obtain ⟨k1, k2, k3, k4, k5, k6, k7⟩ := k.records
    exact ⟨k1.trans h1, k2.trans h2, k3.trans h3, k4.trans h4, k5.trans h5, k6.trans h6, k7.trans h7⟩
  arm := k.arm.trans h.arm
  raised := k.raised.trans h.raised
  result := k.result.trans h.result
  dir := k.dir.trans h.dir
  iocSetup := by
    obtain ⟨hen, hdflt, hcmp⟩ := h.iocSetup
    obtain ⟨ken, kdflt, kcmp⟩ := k.iocSetup
    exact ⟨ken.trans hen, kdflt.trans hdflt, kcmp.trans hcmp⟩
  out q hclken hclkout := (k.out q (by rwa [h.cfg]) (by rwa [h.cfg])).trans (h.out q hclken hclkout)

theorem RecordsStand.clockFrame (h : RecordsStand s t) (hdir : t.dir = s.dir) (hioc : IocSetupKept s t)
    (hout : ∀ q, q ≠ s.cfg.pins.clken → q ≠ s.cfg.pins.clkout → getPin t.out q = getPin s.out q) : ClockFrame s t := by
  obtain ⟨⟨hcfg, hown, _, harm, hfault, hkilled, ht0, hrequests, hconsole⟩, hraised, hresult⟩ := h
  exact ⟨⟨hcfg, hown, hfault, hkilled, ht0, hrequests, hconsole⟩, harm, hraised, hresult, hdir, hioc, hout⟩

theorem EnvKept.clockFrame (h : EnvKept s t) : ClockFrame s t :=
  h.records.clockFrame h.dir ⟨h.en, h.dflt, h.cmp⟩ fun _ _ _ => by rw [h.out]

theorem takeCancel_clockFrame (s : State) : ClockFrame s (takeCancel s) := { ClockFrame.refl s with }

theorem opReturn_clockFrame (s : State) : ClockFrame s (opReturn s) := { ClockFrame.refl s with }

theorem afterMode_clockFrame (k : Nat) (m : ClockMode) (s : State) : ClockFrame s (afterMode k m s) :=
  { ClockFrame.refl s with }

theorem afterSleep_clockFrame (k : Nat) (d : Quantity) (s : State) : ClockFrame s (afterSleep k d s) :=
  (afterSleep_records k d s).clockFrame (afterSleep_dir k d s) (afterSleep_iocSetup k d s)
    fun _ _ _ => by rw [afterSleep_out]

theorem ClockPrim.programmed (hp : ClockPrim p) : Programmed p := by
  rcases hp with rfl | rfl | ⟨l, rfl⟩ <;> trivial

theorem ClockPrim.spares (hp : ClockPrim p) : spares p = true := by
  rcases hp with rfl | rfl | ⟨l, rfl⟩ <;> rfl

theorem ClockPrim.unread (hp : ClockPrim p) : reads p = false := by
  rcases hp with rfl | rfl | ⟨l, rfl⟩ <;> rfl

theorem ClockPrim.unconfigured (hp : ClockPrim p) : configures p = false := by
  rcases hp with rfl | rfl | ⟨l, rfl⟩ <;> rfl

/-- The one register write of a clock primitive. -/
theorem ClockPrim.write (hp : ClockPrim p) (s : State) :
    ∃ g l, (g = .clken ∨ g = .clkout) ∧ accessEffect p s = applyWrite s (.outPin (s.cfg.pins.pin g) l) ∧
      ∀ r, latchesAfter s.cfg p r = setPin r (s.cfg.pins.pin g) l := by
  rcases hp with rfl | rfl | ⟨l, rfl⟩
  · exact ⟨.clken, _, .inl rfl, rfl, fun _ => rfl⟩
  · exact ⟨.clken, _, .inl rfl, rfl, fun _ => rfl⟩
  · exact ⟨.clkout, l, .inr rfl, rfl, fun _ => rfl⟩

theorem afterPrim_clockFrame (hp : ClockPrim p) (k : Nat) (s : State) : ClockFrame s (afterPrim k p s) := by
  refine (afterPrim_records k p s).clockFrame ?_ (afterPrim_iocSetup k hp.unconfigured s) fun q hclken hclkout => ?_
  · rw [afterPrim_dir]
    rcases hp with rfl | rfl | ⟨l, rfl⟩ <;> rfl
  · obtain ⟨g, l, hg, _, hlatch⟩ := hp.write s
    rw [afterPrim_out, hlatch]
    refine getPin_setPin_other _ _ ?_
    rcases hg with rfl | rfl
    · exact hclken
    · exact hclkout

/-! ### The target -/

/-- A register write that leaves RESET reaches the stores and the clock of the target, and nothing else of it. -/
theorem react_targetKept {old new : State} (h : asserts new .reset = asserts old .reset) :
    TargetKept new (react old new) := by
  have hdevices := deviceReact_stores old new
  have hreset (x : State) (hx : asserts x .reset = asserts old .reset) : resetReact old x = x := by
    unfold resetReact
    rw [hx]
    cases asserts old .reset <;> rfl
  have hclock (x : State) : TargetKept x (clockReact old x) := by
    unfold clockReact
    split <;> exact ⟨rfl, rfl, rfl, rfl⟩
  obtain ⟨hbus, hm1, hcpu, hsince⟩ := hclock (ioReadReact old (ioWriteReact old (memWriteReact old new)))
  rw [react, hreset _ ((hdevices.sameLines.asserts _).trans h)]
  refine ⟨hbus.trans ?_, hm1.trans ?_, hcpu.trans ?_, hsince.trans ?_⟩ <;> rw [hdevices.eq]

/-- What the clock operations leave of the target's side and of the change interrupt where no act of the environment comes
between: the clock edge aside, and where a strobe stands asserted the stores. -/
structure ClockCalm (s t : State) : Prop where
  target : TargetKept s t
  ioc : t.ioc = s.ioc
  quiet : StrobesQuiet s → StrobesQuiet t
  stores : StrobesQuiet s → StoresKept s t

theorem ClockCalm.trans (h : ClockCalm s t) (k : ClockCalm t u) : ClockCalm s u where
  target := by
    obtain ⟨h1, h2, h3, h4⟩ := h.target
    obtain ⟨k1, k2, k3, k4⟩ := k.target
    exact ⟨k1.trans h1, k2.trans h2, k3.trans h3, k4.trans h4⟩
  ioc := k.ioc.trans h.ioc
  quiet hs := k.quiet (h.quiet hs)
  stores hs := by
    obtain ⟨h1, h2, h3⟩ := h.stores hs
    obtain ⟨k1, k2, k3⟩ := k.stores (h.quiet hs)
    exact ⟨k1.trans h1, k2.trans h2, k3.trans h3⟩

theorem Calm.clockCalm (h : Calm s t) (hlines : SameLines s t) : ClockCalm s t where
  target := h.kept.1
  ioc := h.ioc
  quiet := hlines.strobesQuiet
  stores _ := h.kept.2

/-- A move of the sequencer, or an assignment to `clock_mode`. -/
theorem SameHardware.clockCalm (h : SameHardware s t) : ClockCalm s t :=
  (Calm.of_eq h.target h.ioc).clockCalm (.of_registers h.cfg h.dir h.out)

theorem IdleFor.clockCalm {n : Nat} (h : IdleFor (n + 1) s) : ClockCalm s (Machine.boundary s).1 :=
  have hk := boundary_kept s
  have hw := h.worldOnly
  Calm.clockCalm ⟨hw.target, hw.ioc⟩ (.of_registers hk.cfg hk.dir hk.out)

theorem perform_clockCalm (hc : s.cfg.pins.WellFormed) (hp : ClockPrim p) : ClockCalm s (perform p s) := by
  obtain ⟨g, l, hg, hw, _⟩ := hp.write s
  have hquiet (hs : StrobesQuiet s) : StrobesQuiet (perform p s) := hs.perform hc hp.programmed hp.spares
  refine ⟨?_, perform_ioc_unread hp.unread hp.unconfigured s, hquiet, fun hs =>
    perform_shut_stores hc hp.programmed (hquiet hs).shut⟩
  have hreset : asserts (storeWrite (.outPin (s.cfg.pins.pin g) l) s) .reset = asserts s .reset := by
    unfold asserts
    rw [show line (storeWrite (.outPin (s.cfg.pins.pin g) l) s) .reset = line s .reset from
      line_setPin_other hc l (by rcases hg with rfl | rfl <;> decide)]
  rw [TargetKept, show (perform p s).target = (accessEffect p s).target from rfl, hw]
  exact react_targetKept hreset

theorem afterPrim_clockCalm {n k : Nat} (hc : s.cfg.pins.WellFormed) (hp : ClockPrim p) (h : IdleFor (n + 1) s) :
    ClockCalm s (afterPrim k p s) :=
  (h.clockCalm.trans (perform_clockCalm (by rwa [(boundary_kept s).cfg]) hp)).trans (jumpTo_control _ _).clockCalm

theorem afterSleep_clockCalm {n k : Nat} (h : IdleFor (n + 2) s) (d : Quantity) : ClockCalm s (afterSleep k d s) := by
  obtain ⟨htarget, hioc, _⟩ := IdleFor.afterSleep (k := k) h d
  refine Calm.clockCalm ⟨by rw [htarget], hioc⟩ ?_
  exact .of_registers (afterSleep_records k d s).flags.1 (afterSleep_dir k d s) (afterSleep_out k d s)

theorem afterMode_clockCalm (k : Nat) (m : ClockMode) (s : State) : ClockCalm s (afterMode k m s) :=
  SameHardware.clockCalm ⟨rfl, rfl, rfl, rfl, rfl⟩

end

/-! ### `NORMAL_CLOCK` -/

/-- R72's precondition on the bus, as the clock operations check it. -/
theorem clockOwnership_iff (s : State) :
    clockOwnership s = true ↔ s.cfg.clockRequiresAcquired = false ∨ s.own = .acquired := by
  simp [clockOwnership, acquired]

/-- The state after `NORMAL_CLOCK` with a sound script. -/
def afterNormalClock (s : State) : State :=
  opReturn (afterMode 1 .hardwareFree (afterPrim 0 (.assert .clken) (beginOp .normalClock s)))

theorem execNormalClock_sound {s : State} (hidle : s.seq = .idle) (hsound : Sound s) (harm : s.arm = .disarmed)
    (hown : s.cfg.clockRequiresAcquired = false ∨ s.own = .acquired) : exec .normalClock s = .next (afterNormalClock s) := by
  have hallowed : allowed s .normalClock = true := by
    simp [allowed, mayNormalClock, harm, (clockOwnership_iff s).mpr hown]
  have hprim : Reaches (programOf s.cfg .normalClock) 1 (beginOp .normalClock s) _ :=
    reaches_prims (i := .normalClock) (ps := [.assert .clken]) rfl rfl (.cons rfl .nil) hsound
  have hq := afterPrim_seq (i := .normalClock) (s := beginOp .normalClock s) rfl (.assert .clken)
  have hq' := afterMode_seq hq .hardwareFree
  have hreturn : Reaches (programOf s.cfg .normalClock) 1 _ (afterNormalClock s) := .ended hq' (tick_end hq' rfl) rfl
  refine exec_of_reaches trivial hidle hallowed ((hprim.trans (reaches_mode hq rfl)).trans hreturn) ?_ rfl
  simp [programOf, normalClockProgram]

theorem afterNormalClock_clockFrame (s : State) : ClockFrame (beginOp .normalClock s) (afterNormalClock s) :=
  ((afterPrim_clockFrame (.inl rfl) 0 _).trans (afterMode_clockFrame _ _ _)).trans (opReturn_clockFrame _)

theorem afterNormalClock_clockCalm {s : State} (hc : s.cfg.pins.WellFormed) (h : Quiet s) :
    ClockCalm s (afterNormalClock s) := by
  have hbegin : ClockCalm s (beginOp .normalClock s) := SameHardware.clockCalm ⟨rfl, rfl, rfl, rfl, rfl⟩
  have hprim := afterPrim_clockCalm (k := 0) (s := beginOp .normalClock s) (n := 0) hc (.inl rfl) (Quiet.idleFor h 1)
  exact ((hbegin.trans hprim).trans (afterMode_clockCalm _ _ _)).trans (opReturn_control _).clockCalm

theorem afterNormalClock_out (s : State) : (afterNormalClock s).out = withSignal s.cfg s.out .clken true := by
  rw [afterNormalClock, opReturn_out, afterMode_out, afterPrim_out]
  rfl

theorem afterNormalClock_trace (s : State) : (afterNormalClock s).trace = s.trace ++ [Event.assert .clken] := by
  rw [afterNormalClock, opReturn_trace, afterMode_trace, afterPrim_trace _ rfl]
  rfl

/-- Settles O29: the one register write is CLKEN's. -/
theorem normalClockCompletes : Obligations.NormalClockCompletes := by
  rintro s ⟨hpins, _⟩ hidle hsound harm hown
  have hframe := afterNormalClock_clockFrame s
  refine ⟨_, execNormalClock_sound hidle hsound harm hown, ⟨rfl, hframe.raised, rfl⟩, rfl, hframe.records, hframe.arm,
    hframe.result, hframe.dir, hframe.iocSetup, afterNormalClock_out s, afterNormalClock_trace s, fun hquiet => ?_,
    fun hgood hquiet => ?_⟩
  · have hcalm := afterNormalClock_clockCalm hpins hquiet
    exact ⟨hcalm.target, hcalm.ioc⟩
  · exact (afterNormalClock_clockCalm hpins hquiet).stores (hgood.strobesQuiet hidle)

end Sys2Proof.Machine
end

section
/-! The loop of `SLOW_CLOCK` (R132) that nothing disturbs: one period of its square wave, and any number of them. -/

namespace Sys2Proof.Machine

/-! ### One period -/

/-- The state before the last sleep of a period. -/
def beforeLastHalf (r : Quantity) (s : State) : State :=
  afterPrim 4 (.clkOut true) (afterSleep 3 (halfPeriod r) (afterPrim 2 (.clkOut false) s))

/-- The state after the four lines of the loop: the last sleep leads to line 2 again. -/
def afterPeriod (r : Quantity) (s : State) : State := afterSleep 1 (halfPeriod r) (beforeLastHalf r s)

theorem clockPrim_clkOut (l : Bool) : ClockPrim (.clkOut l) := .inr (.inr ⟨l, rfl⟩)

section
variable (r : Quantity) (s : State)

theorem beforeLastHalf_env : (beforeLastHalf r s).env = s.env.drop 4 := by
  unfold beforeLastHalf
  rw [afterPrim_env, afterSleep_env, afterPrim_env, ← List.drop_one, ← List.drop_one, List.drop_drop, List.drop_drop]

theorem afterPeriod_env : (afterPeriod r s).env = s.env.drop 6 := by
  rw [afterPeriod, afterSleep_env, beforeLastHalf_env, List.drop_drop]

theorem beforeLastHalf_clockFrame : ClockFrame s (beforeLastHalf r s) :=
  ((afterPrim_clockFrame (clockPrim_clkOut false) _ _).trans (afterSleep_clockFrame _ _ _)).trans
    (afterPrim_clockFrame (clockPrim_clkOut true) _ _)

theorem afterPeriod_clockFrame : ClockFrame s (afterPeriod r s) :=
  (beforeLastHalf_clockFrame r s).trans (afterSleep_clockFrame _ _ _)

theorem afterPeriod_clockMode : (afterPeriod r s).clockMode = s.clockMode := by
  have hhigh : RecordsStand s (beforeLastHalf r s) :=
    ((afterPrim_records _ _ _).trans (afterSleep_records _ _ _)).trans (afterPrim_records _ _ _)
  obtain ⟨_, _, hmode, _⟩ := (hhigh.trans (afterSleep_records 1 (halfPeriod r) _)).flags
  exact hmode

theorem afterPeriod_out : (afterPeriod r s).out = setPin s.out s.cfg.pins.clkout true := by
  have hcfg := ((afterPrim_clockFrame (clockPrim_clkOut false) 2 s).trans (afterSleep_clockFrame 3 (halfPeriod r) _)).cfg
  rw [afterPeriod, afterSleep_out, beforeLastHalf, afterPrim_out, hcfg, afterSleep_out, afterPrim_out]
  exact setPin_setPin_same _ _ _ _

theorem afterPeriod_trace : (afterPeriod r s).trace = s.trace ++ periodEvents r := by
  rw [afterPeriod, afterSleep_trace, beforeLastHalf, afterPrim_trace _ rfl, afterSleep_trace, afterPrim_trace _ rfl]
  simp [eventOf, periodEvents, halfPeriod]

variable {r s}

theorem afterPeriod_clockCalm (hc : s.cfg.pins.WellFormed) (h : IdleFor 6 s) : ClockCalm s (afterPeriod r s) := by
  have hlow := afterPrim_clockCalm (k := 2) (n := 5) hc (clockPrim_clkOut false) h
  have hidle : IdleFor 5 (afterPrim 2 (.clkOut false) s) :=
    IdleFor.drop (n := 1) h (by rw [afterPrim_env, List.drop_one])
  have hslept := afterSleep_clockCalm (k := 3) (n := 3) hidle (halfPeriod r)
  have hcfg := ((afterPrim_clockFrame (clockPrim_clkOut false) 2 s).trans (afterSleep_clockFrame 3 (halfPeriod r) _)).cfg
  have hhigh := afterPrim_clockCalm (k := 4) (n := 2) (by rwa [hcfg]) (clockPrim_clkOut true)
    (IdleFor.drop (n := 2) hidle (afterSleep_env _ _ _))
  have hlast := afterSleep_clockCalm (k := 1) (n := 0) (IdleFor.drop (n := 4) h (beforeLastHalf_env r s)) (halfPeriod r)
  exact ((hlow.trans hslept).trans hhigh).trans hlast

theorem beforeLastHalf_seq {i : Instr} (hq : s.seq = .running i 2) : (beforeLastHalf r s).seq = .running i 5 :=
  afterPrim_seq (afterSleep_seq (afterPrim_seq hq _) _) _

theorem afterPeriod_seq {i : Instr} (hq : s.seq = .running i 2) : (afterPeriod r s).seq = .running i 2 :=
  afterSleep_seq_jump (beforeLastHalf_seq hq) 1 _

theorem Unhindered.beforeLastHalf {n : Nat} (h : Unhindered (n + 4) s) (r : Quantity) :
    Unhindered n (beforeLastHalf r s) :=
  ((Unhindered.afterPrim (n := n + 3) h _ _).afterSleep (n := n + 1) _ _).afterPrim _ _

theorem Unhindered.afterPeriod {n : Nat} (h : Unhindered (n + 6) s) (r : Quantity) : Unhindered n (afterPeriod r s) :=
  (Unhindered.beforeLastHalf (n := n + 2) h r).afterSleep _ _

variable {c : Params} {n : Nat}

theorem Unhindered.reaches_beforeLastHalf (h : Unhindered (n + 4) s) (hq : s.seq = .running (.slowClock r) 2) :
    Reaches (slowClockProgram c r) 3 s (Machine.beforeLastHalf r s) :=
  have hlow := Unhindered.reaches_prim (n := n + 3) (prog := slowClockProgram c r) h hq rfl
  have hq1 := afterPrim_seq hq (.clkOut false)
  have h1 := Unhindered.afterPrim (n := n + 3) h 2 (.clkOut false)
  have hslept := Unhindered.reaches_sleep (n := n + 1) (prog := slowClockProgram c r) h1 hq1 rfl
  have hhigh := Unhindered.reaches_prim (n := n) (prog := slowClockProgram c r)
    (Unhindered.afterSleep (n := n + 1) h1 3 (halfPeriod r)) (afterSleep_seq hq1 _) rfl
  (hlow.trans hslept).trans hhigh

theorem Unhindered.tick_lastHalf (h : Unhindered (n + 6) s) (hq : s.seq = .running (.slowClock r) 2) :
    tick (slowClockProgram c r) (Machine.beforeLastHalf r s) = Machine.afterPeriod r s :=
  (Unhindered.beforeLastHalf (n := n + 2) h r).tick_sleep (beforeLastHalf_seq hq) rfl rfl

/-- While the script goes on the loop goes on (R132). -/
theorem Unhindered.reaches_period (h : Unhindered (n + 6) s) (hq : s.seq = .running (.slowClock r) 2)
    (hmore : s.env.drop 6 ≠ []) : Reaches (slowClockProgram c r) 4 s (Machine.afterPeriod r s) :=
  (Unhindered.reaches_beforeLastHalf (n := n + 2) h hq).trans
    (.of_tick (beforeLastHalf_seq hq) (h.tick_lastHalf hq) (parked_script (by rwa [afterPeriod_env])))

end

/-! ### Any number of periods -/

section
variable {r : Quantity} {s : State}

theorem afterPeriods_clockFrame (r : Quantity) (n : Nat) (s : State) : ClockFrame s ((afterPeriod r)^[n] s) := by
  induction n generalizing s with
  | zero => exact .refl s
  | succ n ih => exact (afterPeriod_clockFrame r s).trans (ih _)

theorem afterPeriods_clockMode (r : Quantity) (n : Nat) (s : State) :
    ((afterPeriod r)^[n] s).clockMode = s.clockMode := by
  induction n generalizing s with
  | zero => rfl
  | succ n ih => exact (ih _).trans (afterPeriod_clockMode r s)

theorem afterPeriods_trace (r : Quantity) (n : Nat) (s : State) :
    ((afterPeriod r)^[n] s).trace = s.trace ++ (List.replicate n (periodEvents r)).flatten := by
  induction n generalizing s with
  | zero => simp
  | succ n ih => rw [Function.iterate_succ_apply, ih, afterPeriod_trace]; simp [List.replicate_succ]

theorem afterPeriods_out (r : Quantity) (n : Nat) (s : State) :
    ((afterPeriod r)^[n + 1] s).out = setPin s.out s.cfg.pins.clkout true := by
  rw [Function.iterate_succ_apply', afterPeriod_out, (afterPeriods_clockFrame r n s).cfg]
  induction n with
  | zero => rfl
  | succ n ih =>
    rw [Function.iterate_succ_apply', afterPeriod_out, (afterPeriods_clockFrame r n s).cfg, setPin_setPin_same]
    exact ih

theorem afterPeriods_seq {i : Instr} (hq : s.seq = .running i 2) (n : Nat) :
    ((afterPeriod r)^[n] s).seq = .running i 2 := by
  induction n generalizing s with
  | zero => exact hq
  | succ n ih => exact ih (afterPeriod_seq hq)

theorem afterPeriods_env (r : Quantity) (n : Nat) (s : State) : ((afterPeriod r)^[n] s).env = s.env.drop (6 * n) := by
  induction n generalizing s with
  | zero => rfl
  | succ n ih => rw [Function.iterate_succ_apply, ih, afterPeriod_env, List.drop_drop, Nat.mul_succ, Nat.add_comm]

theorem afterPeriods_clockCalm {n : Nat} (hc : s.cfg.pins.WellFormed) (h : Quiet s) (r : Quantity) :
    ClockCalm s ((afterPeriod r)^[n] s) := by
  induction n generalizing s with
  | zero => exact SameHardware.clockCalm ⟨rfl, rfl, rfl, rfl, rfl⟩
  | succ n ih =>
    refine (afterPeriod_clockCalm (r := r) hc (h.idleFor 6)).trans (ih ?_ ?_)
    · rwa [(afterPeriod_clockFrame r s).cfg]
    · intro l hl
      rw [afterPeriod_env] at hl
      exact h l (List.mem_of_mem_drop hl)

theorem Unhindered.afterPeriods {m n : Nat} (h : Unhindered (6 * n + m) s) (r : Quantity) :
    Unhindered m ((Machine.afterPeriod r)^[n] s) := by
  induction n generalizing s with
  | zero => simpa using h
  | succ n ih => exact ih (Unhindered.afterPeriod (n := 6 * n + m) (by rwa [Nat.mul_succ, Nat.add_right_comm] at h) r)

theorem Unhindered.reaches_periods {c : Params} {m n : Nat} (h : Unhindered (6 * n + m) s)
    (hq : s.seq = .running (.slowClock r) 2) (hmore : s.env.drop (6 * n) ≠ []) :
    Reaches (slowClockProgram c r) (4 * n) s ((Machine.afterPeriod r)^[n] s) := by
  induction n generalizing s with
  | zero => exact .refl
  | succ n ih =>
    rw [Nat.mul_succ, Nat.add_right_comm] at h
    rw [Nat.mul_succ, Nat.add_comm, ← List.drop_drop] at hmore
    have hfirst := Unhindered.reaches_period (c := c) (n := 6 * n + m) h hq fun e => hmore (by rw [e, List.drop_nil])
    rw [Nat.mul_succ, Nat.add_comm]
    exact hfirst.trans (ih (Unhindered.afterPeriod (n := 6 * n + m) h r) (afterPeriod_seq hq) (by rwa [afterPeriod_env]))

end

/-! ### `SLOW_CLOCK` -/

theorem maySlowClock_of {s : State} (harm : s.arm = .disarmed) (hmode : s.clockMode = .hardwareFree)
    (hown : s.cfg.clockRequiresAcquired = false ∨ s.own = .acquired) : maySlowClock s = true := by
  simp [maySlowClock, harm, hmode, (clockOwnership_iff s).mpr hown]

theorem exec_slowClock {s : State} {r : Quantity} (hidle : s.seq = .idle) (hr : 0 < r) (hallowed : maySlowClock s = true) :
    exec (.slowClock r) s = .next (runOp (slowClockProgram s.cfg r) (beginOp (.slowClock r) s)) :=
  issue_next (Rat.num_pos.mpr hr) hidle hallowed

/-- The state at the loop's first line. -/
def atLoop (r : Quantity) (s : State) : State :=
  afterMode 1 (.hostSlow r) (afterPrim 0 (.deassert .clken) (beginOp (.slowClock r) s))

section
variable (r : Quantity) (s : State)

theorem atLoop_seq : (atLoop r s).seq = .running (.slowClock r) 2 :=
  afterMode_seq (afterPrim_seq (s := beginOp (.slowClock r) s) rfl _) _

theorem atLoop_env : (atLoop r s).env = s.env.tail := by
  rw [atLoop, afterMode_env, afterPrim_env, beginOp_env]

theorem atLoop_trace : (atLoop r s).trace = s.trace ++ [Event.deassert .clken] := by
  rw [atLoop, afterMode_trace, afterPrim_trace _ rfl]
  rfl

theorem atLoop_out : (atLoop r s).out = withSignal s.cfg s.out .clken false := by
  rw [atLoop, afterMode_out, afterPrim_out]
  rfl

theorem atLoop_clockFrame : ClockFrame (beginOp (.slowClock r) s) (atLoop r s) :=
  (afterPrim_clockFrame (.inr (.inl rfl)) 0 _).trans (afterMode_clockFrame _ _ _)

variable {r s}

theorem atLoop_clockCalm (hc : s.cfg.pins.WellFormed) (h : Quiet s) : ClockCalm s (atLoop r s) := by
  have hbegin : ClockCalm s (beginOp (.slowClock r) s) := SameHardware.clockCalm ⟨rfl, rfl, rfl, rfl, rfl⟩
  have hprim := afterPrim_clockCalm (k := 0) (s := beginOp (.slowClock r) s) (n := 0) hc (.inr (.inl rfl))
    (Quiet.idleFor h 1)
  exact (hbegin.trans hprim).trans (afterMode_clockCalm _ _ _)

theorem Unhindered.begin {n : Nat} (h : Unhindered n s) (i : Instr) : Unhindered n (beginOp i s) := h.congr rfl rfl rfl

theorem Unhindered.atLoop {n : Nat} (h : Unhindered (n + 1) s) (r : Quantity) : Unhindered n (atLoop r s) :=
  ((h.begin (.slowClock r)).afterPrim 0 (.deassert .clken)).congr (afterMode_cfg _ _ _) (afterMode_env _ _ _)
    (afterMode_cancel _ _ _)

theorem Unhindered.reaches_atLoop {c : Params} {n : Nat} (h : Unhindered (n + 1) s) :
    Reaches (slowClockProgram c r) 2 (beginOp (.slowClock r) s) (Machine.atLoop r s) :=
  have hprim := (h.begin (.slowClock r)).reaches_prim (prog := slowClockProgram c r) rfl rfl
  hprim.trans (reaches_mode (afterPrim_seq (s := beginOp (.slowClock r) s) rfl _) rfl)

end

/-- With a script of `n + 1` periods the sequencer waits at the loop's first line after the last (assumption 10). -/
theorem execSlowClock_runs {s : State} {r : Quantity} {n : Nat} (hidle : s.seq = .idle) (hcancel : s.cancel = false)
    (hr : 0 < r) (hallowed : maySlowClock s = true) (henv : s.env = List.replicate (6 * n + 7) idleSlot) :
    exec (.slowClock r) s = .next ((afterPeriod r)^[n + 1] (atLoop r s)) := by
  have hslots : ∀ l ∈ s.env, l = idleSlot := fun l hl => List.eq_of_mem_replicate (henv ▸ hl)
  have hfree : Unhindered (6 * n + 6 + 1) s :=
    ⟨hcancel, fun l hl => by rw [hslots l hl]; rfl, fun l hl => by
      rw [hslots l (List.mem_of_mem_take hl)]
      exact nofun⟩
  have hloop := hfree.atLoop r
  have hq := atLoop_seq r s
  have hmore : (atLoop r s).env.drop (6 * n) ≠ [] := by
    rw [atLoop_env, henv]
    simp
  have hlast := hloop.afterPeriods (n := n) r
  have hqlast := afterPeriods_seq (r := r) hq n
  have hreach := (hfree.reaches_atLoop.trans (hloop.reaches_periods (n := n) hq hmore)).trans
    (Unhindered.reaches_beforeLastHalf (c := s.cfg) (n := 2) hlast hqlast)
  have htick := Unhindered.tick_lastHalf (c := s.cfg) (n := 0) hlast hqlast
  rw [Function.iterate_succ_apply', ← htick, exec_slowClock hidle hr hallowed]
  refine congrArg _ (hreach.runOp_waits ?_ (beforeLastHalf_seq hqlast) ?_)
  · simp [slowClockProgram, henv]
    omega
  · rw [htick, beforeLastHalf_seq hqlast, afterPeriod_seq hqlast, afterPeriod_env, afterPeriods_env, atLoop_env, henv]
    simp [parked]

/-- Settles O30: the loop's four lines are one period, and nothing disturbs any of them. -/
theorem slowClockRuns : Obligations.SlowClockRuns := by
  rintro s r n ⟨hpins, _⟩ hidle hcancel hr harm hmode hown henv
  have hquiet : Quiet s := fun l hl => List.eq_of_mem_replicate (henv ▸ hl)
  have hloop : Quiet (atLoop r s) := fun l hl => hquiet l (List.mem_of_mem_tail (by rwa [← atLoop_env r s]))
  have hcfg := (atLoop_clockFrame r s).cfg
  have hframe := (atLoop_clockFrame r s).trans (afterPeriods_clockFrame r (n + 1) _)
  have hcalm := (atLoop_clockCalm hpins hquiet).trans
    (afterPeriods_clockCalm (n := n + 1) (s := atLoop r s) (by rw [hcfg]; exact hpins) hloop r)
  refine ⟨_, execSlowClock_runs hidle hcancel hr (maySlowClock_of harm hmode hown) henv, afterPeriods_seq (atLoop_seq r s) _,
    afterPeriods_clockMode r _ _, hframe.records, hframe.arm, hframe.result, hframe.dir, hcalm.ioc, hcalm.target,
    fun hgood => hcalm.stores (hgood.strobesQuiet hidle), ?_, ?_⟩
  · rw [afterPeriods_out, atLoop_out, hcfg]
    rfl
  · rw [afterPeriods_trace, atLoop_trace]

end Sys2Proof.Machine
end

section
/-! `SLOW_CLOCK` cancelled (R133, R192): every boundary of its loop is one at which a cancellation leads to the handler. -/

namespace Sys2Proof.Machine

/-! ### The scope -/

section
variable {r : Quantity} {k : Nat} {s : State}

theorem cancellable_slowClock (r : Quantity) (k : Nat) : cancellable (.running (.slowClock r) k) = decide (k < 6) := rfl

theorem inHandler_slowClock (hq : s.seq = .running (.slowClock r) k) : inHandler s = decide (6 ≤ k) := by
  unfold inHandler
  rw [hq]
  rfl

theorem takeCancel_slowClock_seq (hq : s.seq = .running (.slowClock r) k) :
    (takeCancel s).seq = .running (.slowClock r) 6 := by
  simp [takeCancel, hq, scopeHandler]

theorem untaken_of_handler (hq : s.seq = .running (.slowClock r) k) (hk : 6 ≤ k) : Untaken s := by
  rw [Untaken, (boundary_kept s).seq, hq, cancellable_slowClock]
  simp [hk]

theorem cancelTaken_slowClock (hq : s.seq = .running (.slowClock r) k) (hk : k < 6) (hcancel : (boundary s).1.cancel = true) :
    CancelTaken s := by
  rw [CancelTaken, (boundary_kept s).seq, hq, cancellable_slowClock]
  simp [hk, hcancel]

end

/-! ### The handler -/

/-- The handler of `SLOW_CLOCK` is next, the cancellation taken. -/
structure AtHandler (r : Quantity) (s : State) : Prop where
  seq : s.seq = .running (.slowClock r) 6
  cancel : s.cancel = false
  sound : Sound s

/-- The state after the handler (R133). -/
def afterHandler (s : State) : State := opReturn (afterMode 7 .hardwareFree (afterPrim 6 (.assert .clken) s))

theorem AtHandler.reaches {r : Quantity} {s : State} (h : AtHandler r s) (c : Params) :
    Reaches (slowClockProgram c r) 3 s (afterHandler s) := by
  have hq := afterPrim_seq h.seq (.assert .clken)
  have hq' := afterMode_seq hq .hardwareFree
  have hprim : Reaches (slowClockProgram c r) 1 s (afterPrim 6 (.assert .clken) s) :=
    .next h.seq (tick_prim (untaken_of_handler h.seq le_rfl) (boundary_sound h.sound).1 h.seq rfl) hq (by decide)
  have hreturn : Reaches (slowClockProgram c r) 1 _ (afterHandler s) := .ended hq' (tick_end hq' rfl) rfl
  exact (hprim.trans (reaches_mode hq rfl)).trans hreturn

theorem AtHandler.cancel_after {r : Quantity} {s : State} (h : AtHandler r s) : (afterHandler s).cancel = false := by
  have hin : inHandler s = true := inHandler_slowClock h.seq
  have hboundary : (boundary s).1.cancel = false := (boundary_cancel (.inr hin)).trans h.cancel
  rw [afterHandler, opReturn_cancel, afterMode_cancel, afterPrim_cancel, hboundary]

theorem afterHandler_clockFrame (s : State) : ClockFrame s (afterHandler s) :=
  ((afterPrim_clockFrame (.inl rfl) 6 s).trans (afterMode_clockFrame _ _ _)).trans (opReturn_clockFrame _)

theorem afterHandler_trace (s : State) : (afterHandler s).trace = s.trace ++ [Event.assert .clken] := by
  rw [afterHandler, opReturn_trace, afterMode_trace, afterPrim_trace _ rfl]
  rfl

theorem afterHandler_out (s : State) : (afterHandler s).out = withSignal s.cfg s.out .clken true := by
  rw [afterHandler, opReturn_out, afterMode_out, afterPrim_out]
  rfl

theorem latchAt_afterHandler (s : State) : latchAt (afterHandler s) .clken true := by
  rw [latchAt, (afterHandler_clockFrame s).cfg, afterHandler_out]
  exact getPin_setPin_same _ _ _

/-! ### The way to the handler -/

/-- The cancellation is raised at the boundary after the next `m`, at which nothing disturbs the lines. -/
structure Pending (m : Nat) (s : State) : Prop extends Unhindered m s where
  raises : s.env[m]? = some (slotOf .cancel)

/-- In at most `m + 1` ticks the run of `SLOW_CLOCK` from `s` is led to the handler by a cancellation, with the events `evs`
recorded before. -/
def Exits (c : Params) (r : Quantity) (m : Nat) (evs : List Event) (s : State) : Prop :=
  ∃ n t, n ≤ m + 1 ∧ Reaches (slowClockProgram c r) n s t ∧ AtHandler r t ∧ ClockFrame s t ∧ t.trace = s.trace ++ evs

section
variable {c : Params} {r : Quantity} {k m : Nat} {s u : State} {evs : List Event}

theorem Pending.of_drop {n : Nat} (h : Pending (n + m) s) (hu : Unhindered m u) (henv : u.env = s.env.drop n) :
    Pending m u :=
  ⟨hu, by rw [henv, List.getElem?_drop]; exact h.raises⟩

theorem Pending.boundary (h : Pending (m + 1) s) : Pending m (boundary s).1 :=
  .of_drop (n := 1) (Nat.add_comm m 1 ▸ h) h.toUnhindered.boundary (by rw [boundary_env, List.drop_one])

theorem Pending.afterPrim (h : Pending (m + 1) s) (k : Nat) (p : Prim) : Pending m (afterPrim k p s) :=
  .of_drop (n := 1) (Nat.add_comm m 1 ▸ h) (h.toUnhindered.afterPrim k p) (by rw [afterPrim_env, List.drop_one])

theorem Pending.afterSleep (h : Pending (m + 2) s) (k : Nat) (d : Quantity) : Pending m (afterSleep k d s) :=
  .of_drop (n := 2) (Nat.add_comm m 2 ▸ h) (h.toUnhindered.afterSleep k d) (afterSleep_env k d s)

theorem Pending.cancelTaken (h : Pending 0 s) (hq : s.seq = .running (.slowClock r) k) (hk : k < 6) : CancelTaken s := by
  have hin : inHandler s = false := by simp [inHandler_slowClock hq, hk]
  have hraises := h.raises
  cases henv : s.env with
  | nil => simp [henv] at hraises
  | cons l rest =>
    obtain rfl : l = slotOf .cancel := by simpa [henv] using hraises
    exact cancelTaken_slowClock hq hk (boundary_raises henv hin)

theorem atHandler_takeCancel (hq : s.seq = .running (.slowClock r) k) (hsound : Sound s) : AtHandler r (takeCancel s) :=
  ⟨takeCancel_slowClock_seq hq, rfl, hsound⟩

/-- A line before which the cancellation is raised is not begun. -/
theorem exits_at {l : ProgLine} (h : Pending 0 s) (hq : s.seq = .running (.slowClock r) k) (hk : k < 6)
    (hl : (slowClockProgram c r)[k]? = some l) (hmicro : (accessOf l.micro).isSome = true ∨ isSleep l.micro = true) :
    Exits c r 0 [] s := by
  have hq' := (boundary_kept s).seq.trans hq
  have htick := (tick_line hq hl).trans (doLine_taken (h.cancelTaken hq hk) hmicro k)
  refine ⟨1, takeCancel (boundary s).1, le_rfl, .next hq htick (takeCancel_slowClock_seq hq') hk,
    atHandler_takeCancel hq' (boundary_sound h.sound).2, (boundary_kept s).clockFrame.trans (takeCancel_clockFrame _), ?_⟩
  rw [List.append_nil]
  exact (boundary_kept s).trace

/-- A sleep inside which the cancellation is raised is cut short (R192). -/
theorem exits_inside {pos : Pos} {d : Quantity} {jump : Option Nat} (h : Pending 1 s)
    (hq : s.seq = .running (.slowClock r) k) (hk : k < 6)
    (hl : (slowClockProgram c r)[k]? = some ⟨pos, .sleep d, jump⟩) : Exits c r 1 [.sleep d true] s := by
  have hb := boundary_kept s
  have hb' := boundary_kept (boundary s).1
  have hq' := hb'.seq.trans (hb.seq.trans hq)
  have htick : tick (slowClockProgram c r) s = takeCancel (emit (.sleep d true) (boundary (boundary s).1).1) :=
    (tick_line hq hl).trans (sleepFor_cut (d := fun _ => d) h.toUnhindered.untaken h.notKilled
      (h.boundary.cancelTaken (hb.seq.trans hq) hk))
  refine ⟨1, _, by omega, .next hq htick (takeCancel_slowClock_seq hq') hk,
    atHandler_takeCancel hq' (boundary_sound (boundary_sound h.sound).2).2,
    (hb.clockFrame.trans hb'.clockFrame).trans { ClockFrame.refl _ with }, ?_⟩
  show (boundary (boundary s).1).1.trace ++ _ = _
  rw [hb'.trace, hb.trace]

/-- A line that is carried out goes before what the rest of the way records. -/
theorem Exits.after {j : Nat} {e : Event} (h : Exits c r m evs u) (hreach : Reaches (slowClockProgram c r) 1 s u)
    (hframe : ClockFrame s u) (htrace : u.trace = s.trace ++ [e]) (hm : m < j) : Exits c r j (e :: evs) s := by
  obtain ⟨n, t, hn, hreach', hhandler, hframe', htrace'⟩ := h
  refine ⟨1 + n, t, by omega, hreach.trans hreach', hhandler, hframe.trans hframe', ?_⟩
  rw [htrace', htrace, List.append_assoc]
  rfl

theorem exits_prim {pos : Pos} {p : Prim} (hp : ClockPrim p) (h : Pending (m + 1) s)
    (hq : s.seq = .running (.slowClock r) k) (hl : (slowClockProgram c r)[k]? = some ⟨pos, .prim p, none⟩)
    (hrest : Exits c r m evs (afterPrim k p s)) : Exits c r (m + 1) (eventOf p s :: evs) s :=
  hrest.after (h.toUnhindered.reaches_prim hq hl) (afterPrim_clockFrame hp k s) (afterPrim_trace k hp.unread s)
    (Nat.lt_succ_self m)

theorem exits_sleep {pos : Pos} {d : Quantity} {jump : Option Nat} {j : Nat} (h : Pending (m + 2) s)
    (hq : s.seq = .running (.slowClock r) k) (hl : (slowClockProgram c r)[k]? = some ⟨pos, .sleep d, jump⟩)
    (hj : jump.getD (k + 1) = j + 1) (hrest : Exits c r m evs (afterSleep j d s)) :
    Exits c r (m + 2) (.sleep d false :: evs) s := by
  refine hrest.after (.of_tick hq (h.toUnhindered.tick_sleep hq hl hj) (parked_script fun e => ?_))
    (afterSleep_clockFrame j d s) (afterSleep_trace j d s) (by omega)
  have hraises := (h.afterSleep j d).raises
  rw [e] at hraises
  cases hraises

/-! ### The loop -/

/-- The events of the loop before a cancellation at the boundary after the next `m` (R132, R192). -/
def loopEvents (r : Quantity) (m : Nat) : List Event :=
  (List.replicate (m / 6) (periodEvents r)).flatten ++ cutPeriod r (m % 6)

theorem slowEvents_succ (r : Quantity) (m : Nat) : slowEvents r (m + 1) = .deassert .clken :: loopEvents r m := rfl

/-- The events of a half of a period, `ClkOut(l)` and its sleep, and of the `rest` after it, before such a cancellation. -/
def cutHalf (r : Quantity) (l : Bool) (rest : Nat → List Event) : Nat → List Event
  | 0 => []
  | 1 => [.clk l]
  | 2 => [.clk l, .sleep (halfPeriod r) true]
  | m + 3 => .clk l :: .sleep (halfPeriod r) false :: rest m

theorem loopEvents_halves (r : Quantity) (m : Nat) :
    loopEvents r m = cutHalf r false (cutHalf r true (loopEvents r)) m := by
  match m with
  | 0 | 1 | 2 | 3 | 4 | 5 => rfl
  | m + 6 => simp [loopEvents, List.replicate_succ, cutHalf, periodEvents, halfPeriod]

/-- In a half of a period, lines `k` and `k + 1`, the cancellation strikes before a line or inside the sleep, or after it. -/
theorem exits_half {pos pos' : Pos} {l : Bool} {jump : Option Nat} {j : Nat} {rest : Nat → List Event} (h : Pending m s)
    (hq : s.seq = .running (.slowClock r) k) (hk : k < 5)
    (hclk : (slowClockProgram c r)[k]? = some ⟨pos, .prim (.clkOut l), none⟩)
    (hsleep : (slowClockProgram c r)[k + 1]? = some ⟨pos', .sleep (halfPeriod r), jump⟩)
    (hj : jump.getD (k + 2) = j + 1)
    (hrest : ∀ {n u}, n < m → Pending n u → u.seq = .running (.slowClock r) (j + 1) → Exits c r n (rest n) u) :
    Exits c r m (cutHalf r l rest m) s := by
  have hp := clockPrim_clkOut l
  have hq' := afterPrim_seq hq (.clkOut l)
  match m with
  | 0 => exact exits_at h hq (by omega) hclk (.inl rfl)
  | 1 => exact exits_prim hp h hq hclk (exits_at (h.afterPrim _ _) hq' (by omega) hsleep (.inr rfl))
  | 2 => exact exits_prim hp h hq hclk (exits_inside (h.afterPrim _ _) hq' (by omega) hsleep)
  | m + 3 =>
    have hpending := h.afterPrim k (.clkOut l)
    have hlast := hrest (by omega) (hpending.afterSleep j (halfPeriod r)) (afterSleep_seq_jump hq' j _)
    exact exits_prim hp h hq hclk (exits_sleep hpending hq' hsleep hj hlast)

theorem exits_loop (h : Pending m s) (hq : s.seq = .running (.slowClock r) 2) : Exits c r m (loopEvents r m) s := by
  induction m using Nat.strong_induction_on generalizing s with
  | _ m ih =>
    rw [loopEvents_halves]
    refine exits_half h hq (by decide) rfl rfl rfl fun hn hu hqu => ?_
    exact exits_half hu hqu (by decide) rfl rfl rfl fun hn' hu' hqu' => ih _ (hn'.trans hn) hu' hqu'

/-- Before the loop there is one boundary, that of `Deassert(CLKEN)`. -/
theorem exits_start (h : Pending m s) : Exits c r (m + 1) (slowEvents r m) (beginOp (.slowClock r) s) := by
  have hbegin : Pending m (beginOp (.slowClock r) s) := ⟨h.toUnhindered.begin _, h.raises⟩
  match m with
  | 0 =>
    obtain ⟨n, t, hn, hrest⟩ : Exits c r 0 [] (beginOp (.slowClock r) s) := exits_at hbegin rfl (by decide) rfl (.inl rfl)
    exact ⟨n, t, by omega, hrest⟩
  | m + 1 =>
    have hloop : Pending m (atLoop r s) := ⟨h.toUnhindered.atLoop r, by rw [atLoop_env, List.getElem?_tail]; exact h.raises⟩
    obtain ⟨n, t, hn, hreach, hhandler, hframe, htrace⟩ :=
      exits_loop (c := c) hloop (atLoop_seq r s)
    refine ⟨2 + n, t, by omega, h.toUnhindered.reaches_atLoop.trans hreach, hhandler, (atLoop_clockFrame r s).trans hframe, ?_⟩
    rw [htrace, atLoop_trace, slowEvents_succ, List.append_assoc]
    rfl

end

theorem pending_of_script {s : State} {before rest : List Slot} (hcancel : s.cancel = false) (hsound : Sound s)
    (henv : s.env = before ++ slotOf .cancel :: rest) (hbefore : ∀ l ∈ before, EnvAct.cancel ∉ l.acts) :
    Pending before.length s :=
  ⟨⟨hcancel, hsound, fun l hl => hbefore l (by simpa [henv] using hl)⟩, by simp [henv]⟩

/-- Settles O31: every boundary before the handler is one at which the cancellation leads there, and the handler runs. -/
theorem slowClockCancelled : Obligations.SlowClockCancelled := by
  intro s r before rest _ hidle hcancel hr harm hmode hown hsound henv hbefore
  obtain ⟨n, u, hn, hreach, hhandler, hframe, htrace⟩ :=
    exits_start (c := s.cfg) (r := r) (pending_of_script hcancel hsound henv hbefore)
  have hrun := (hreach.trans (hhandler.reaches s.cfg)).runOp_eq (s := beginOp (.slowClock r) s)
    (by simp [slowClockProgram, henv]; omega) rfl
  have hframe' := hframe.trans (afterHandler_clockFrame u)
  obtain ⟨_, hown', hfault, _⟩ := hframe'.records
  refine ⟨afterHandler u, ?_, ⟨rfl, hframe'.raised, rfl⟩, rfl, hfault, hhandler.cancel_after, hown', hframe'.arm, hframe'.dir,
    latchAt_afterHandler u, hframe'.out, ?_⟩
  · rw [exec_slowClock hidle hr (maySlowClock_of harm hmode hown), hrun]
  · rw [afterHandler_trace, htrace]
    rfl

end Sys2Proof.Machine
end

section
/-! CLKEN while the loop of `SLOW_CLOCK` is in progress (R134): everything that one tick of it can come to. -/

namespace Sys2Proof.Machine

/-- ALL THAT A TICK IN THE LOOP CAN COME TO (R132, R184, R192): the edge is made and the loop goes on, or the write aborts; the
time is slept and the loop goes on, or a cancellation cuts the sleep short; a cancellation is taken before the line; the
controller is killed. -/
inductive LoopTick (s : State) : State → Prop where
  | clocked (l : Bool) {j : Nat} (hj : 2 ≤ j ∧ j ≤ 5) : LoopTick s (jumpTo j (perform (.clkOut l) (boundary s).1))
  | aborted (l : Bool) (f : Fault) (n : Nat) : LoopTick s (raiseFault f (abortEffect (.clkOut l) n (boundary s).1))
  | slept (d now : Quantity) {u : State} {j : Nat} (hu : EnvKept s u) (hj : 2 ≤ j ∧ j ≤ 5) :
    LoopTick s (jumpTo j (emit (.sleep d false) { u with now := now }))
  | cut (d : Quantity) {u : State} (hu : EnvKept s u) : LoopTick s (takeCancel (emit (.sleep d true) u))
  | cancelled {u : State} (hu : EnvKept s u) : LoopTick s (takeCancel u)
  | killed {u : State} (hu : EnvKept s u) : LoopTick s (takeKill u)

section
variable {c : Params} {r : Quantity} {k : Nat} {s t : State}

/-- The lines of the loop: an edge of CLKOUT or a sleep, and a line of the loop after it (R132). -/
theorem slowClock_loop_line (c : Params) (r : Quantity) (hk : 2 ≤ k ∧ k ≤ 5) :
    ∃ l, (slowClockProgram c r)[k]? = some l ∧ (2 ≤ l.jump.getD (k + 1) ∧ l.jump.getD (k + 1) ≤ 5) ∧
      ((∃ high, l.micro = .prim (.clkOut high)) ∨ ∃ d, l.micro = .sleep d) := by
  obtain ⟨h2, h5⟩ := hk
  interval_cases k
  · exact ⟨_, rfl, by decide, .inl ⟨false, rfl⟩⟩
  · exact ⟨_, rfl, (by decide : 2 ≤ 4 ∧ 4 ≤ 5), .inr ⟨_, rfl⟩⟩
  · exact ⟨_, rfl, by decide, .inl ⟨true, rfl⟩⟩
  · exact ⟨_, rfl, (by decide : 2 ≤ 2 ∧ 2 ≤ 5), .inr ⟨_, rfl⟩⟩

theorem loopTick_of_running (hq : s.seq = .running (.slowClock r) k) (hk : 2 ≤ k ∧ k ≤ 5) :
    LoopTick s (tick (slowClockProgram c r) s) := by
  obtain ⟨⟨pos, micro, jump⟩, hl, hj, hmicro⟩ := slowClock_loop_line c r hk
  have hb := boundary_kept s
  have hb' := hb.trans (boundary_kept (boundary s).1)
  rw [tick_line hq hl]
  rcases hmicro with ⟨high, rfl⟩ | ⟨d, rfl⟩ <;> simp only [doLine]
  · rcases access_cases (.clkOut high) pos (fun t => advance k ⟨pos, .prim (.clkOut high), jump⟩ (perform (.clkOut high) t)) s
      with ⟨_, e⟩ | ⟨_, ⟨_, e⟩ | ⟨n, _, e⟩ | ⟨_, e⟩⟩ <;> rw [e]
    · exact .cancelled hb
    · exact .clocked high hj
    · exact .aborted high _ n
    · exact .killed hb
  · rcases sleepFor_cases (fun _ => d) (advance k ⟨pos, .sleep d, jump⟩) s with e | e | e | e | e <;> rw [e]
    · exact .cancelled hb
    · exact .killed hb
    · exact .cut d hb'
    · exact .killed hb'
    · exact .slept d _ hb' hj

/-- A pending cancellation is taken by the tick, which performs nothing (R192). -/
theorem tick_loop_of_cancel (hq : s.seq = .running (.slowClock r) k) (hk : 2 ≤ k ∧ k ≤ 5)
    (hcancel : (boundary s).1.cancel = true) : tick (slowClockProgram c r) s = takeCancel (boundary s).1 := by
  obtain ⟨l, hl, _, hmicro⟩ := slowClock_loop_line c r hk
  rw [tick_line hq hl]
  refine doLine_taken (cancelTaken_slowClock hq (by omega) hcancel) ?_ k
  rcases hmicro with ⟨high, e⟩ | ⟨d, e⟩ <;> simp [e, accessOf, isSleep]

/-! ### CLKEN -/

theorem line_clken_perform_clkOut (hc : s.cfg.pins.WellFormed) (l : Bool) :
    line (perform (.clkOut l) s) .clken = line s .clken :=
  line_perform_other hc (p := .clkOut l) trivial (by decide) nofun nofun fun _ _ => by decide

theorem line_clken_abort_clkOut (hc : s.cfg.pins.WellFormed) (l : Bool) (n : Nat) :
    line (abortEffect (.clkOut l) n s) .clken = line s .clken := by
  cases n with
  | zero => rfl
  | succ n =>
    have e : abortEffect (.clkOut l) (n + 1) s = accessEffect (.clkOut l) s := by
      simp [abortEffect, accessEffect, writesOf]
    rw [e]
    exact line_clken_perform_clkOut hc l

theorem LoopTick.line_clken (h : LoopTick s t) (hc : s.cfg.pins.WellFormed) : line t .clken = line s .clken := by
  have hb := boundary_kept s
  have hc' : (boundary s).1.cfg.pins.WellFormed := by rwa [hb.cfg]
  cases h with
  | clocked l => exact (line_clken_perform_clkOut hc' l).trans (hb.line _)
  | aborted l f n => exact (line_clken_abort_clkOut hc' l n).trans (hb.line _)
  | slept _ _ hu | cut _ hu | cancelled hu | killed hu => exact hu.line .clken

/-! ### Where it leads -/

theorem raiseFault_slowClock_seq (f : Fault) (hq : s.seq = .running (.slowClock r) k) (hk : k < 6) :
    (raiseFault f s).seq = .running (.slowClock r) 6 := by
  simp [raiseFault, hq, scopeHandler, hk]

theorem LoopTick.seq (h : LoopTick s t) (hq : s.seq = .running (.slowClock r) k) (hk : k < 6) :
    (∃ j, t.seq = .running (.slowClock r) j ∧ 2 ≤ j ∧ j ≤ 6) ∨ (t.seq = .idle ∧ t.killed = true) := by
  have hb := (boundary_kept s).seq.trans hq
  cases h with
  | @clocked l j hj => exact .inl ⟨j, jumpTo_running ((perform_kept _ _).seq.trans hb) j, hj.1, by omega⟩
  | aborted l f n =>
    exact .inl ⟨6, raiseFault_slowClock_seq f ((abortEffect_kept _ n _).seq.trans hb) hk, by decide, le_rfl⟩
  | @slept d now u j hu hj => exact .inl ⟨j, jumpTo_running (hu.seq.trans hq) j, hj.1, by omega⟩
  | cut d hu => exact .inl ⟨6, takeCancel_slowClock_seq (hu.seq.trans hq), by decide, le_rfl⟩
  | cancelled hu => exact .inl ⟨6, takeCancel_slowClock_seq (hu.seq.trans hq), by decide, le_rfl⟩
  | killed => exact .inr ⟨rfl, rfl⟩

/-- A tick that leads to the handler records nothing but a sleep cut short (R192). -/
theorem LoopTick.trace_of_exit (h : LoopTick s t) (hq : s.seq = .running (.slowClock r) k)
    (ht : t.seq = .running (.slowClock r) 6) : t.trace = s.trace ∨ ∃ d, t.trace = s.trace ++ [Event.sleep d true] := by
  have hb := boundary_kept s
  cases h with
  | @clocked l j hj =>
    cases (jumpTo_running ((perform_kept _ _).seq.trans (hb.seq.trans hq)) j).symm.trans ht
    omega
  | aborted l f n => exact .inl ((abortEffect_trace _ n _).trans hb.trace)
  | @slept d now u j hu hj =>
    cases (jumpTo_running (hu.seq.trans hq) j).symm.trans ht
    omega
  | @cut d u hu => exact .inr ⟨d, congrArg (· ++ [Event.sleep d true]) hu.trace⟩
  | cancelled hu => exact .inl hu.trace
  | killed => cases ht

/-- The handler's first line is `Assert(CLKEN)` (R133). -/
theorem tick_handler_trace (hq : s.seq = .running (.slowClock r) 6) (hok : (boundary s).2 = .ok) :
    (tick (slowClockProgram c r) s).trace = s.trace ++ [Event.assert .clken] := by
  rw [tick_prim (untaken_of_handler hq le_rfl) hok hq rfl]
  exact afterPrim_trace 6 (p := .assert .clken) rfl s

end

/-- Settles O32: the loop writes no latch but CLKOUT's, and every way out of it leads to the handler or is a kill. -/
theorem hostSlowKeepsClkenOff : Obligations.HostSlowKeepsClkenOff := by
  rintro s t r k ⟨hpins, _⟩ hq h2 h5 hoff rfl
  have htick : LoopTick s (tick (programOf s.cfg (.slowClock r)) s) :=
    loopTick_of_running (c := s.cfg) hq ⟨h2, h5⟩
  refine ⟨(htick.line_clken hpins).trans hoff, htick.seq hq (by omega), fun hcancel => ?_, fun ht =>
    ⟨htick.trace_of_exit hq ht, tick_handler_trace (c := s.cfg) ht⟩⟩
  have e : tick (programOf s.cfg (.slowClock r)) s = takeCancel (boundary s).1 :=
    tick_loop_of_cancel (c := s.cfg) hq ⟨h2, h5⟩ hcancel
  rw [e]
  exact ⟨takeCancel_slowClock_seq ((boundary_kept s).seq.trans hq), (boundary_kept s).trace⟩

end Sys2Proof.Machine
end

section
/-! `SINGLESTEP_ON` and `SINGLESTEP_OFF` (R141, R142): writes of M1's bits in the change interrupt's registers, which change no
line, and the assignments to `arm` and `clock_mode`. -/

namespace Sys2Proof.Machine

/-! ### The registers of the change interrupt -/

/-- One of the three registers that the controller writes (R23). -/
def Ioc.reg (r : Ioc) : IocField → Byte
  | .en => r.en
  | .dflt => r.dflt
  | .cmp => r.cmp

theorem EnvKept.iocReg {s t : State} (h : EnvKept s t) (f : IocField) : t.ioc.reg f = s.ioc.reg f := by
  cases f
  · exact h.en
  · exact h.dflt
  · exact h.cmp

/-- A configuration of M1's interrupt writes M1's bit of its own register. -/
theorem perform_iocConfig_reg (f g : IocField) (v : Bool) (s : State) :
    (perform (.iocConfig .m1 f v) s).ioc.reg g =
      if g = f then setBit (s.ioc.reg g) s.cfg.pins.m1.bit v else s.ioc.reg g := by
  rw [perform_iocConfig_ioc]
  cases f <;> cases g <;> rfl

theorem afterPrim_iocConfig_reg (k : Nat) (f g : IocField) (v : Bool) (s : State) :
    (afterPrim k (.iocConfig .m1 f v) s).ioc.reg g =
      if g = f then setBit (s.ioc.reg g) s.cfg.pins.m1.bit v else s.ioc.reg g := by
  have hb := boundary_kept s
  rw [afterPrim, jumpTo_ioc, perform_iocConfig_reg, hb.cfg, hb.iocReg]

/-- M1's latch bit is cleared where the pin is disabled as an interrupt source, and else it stays (R142 step 2). -/
theorem perform_iocConfig_flag (f : IocField) (v : Bool) (s : State) :
    (perform (.iocConfig .m1 f v) s).ioc.flag =
      if f = .en ∧ v = false then setBit s.ioc.flag s.cfg.pins.m1.bit false else s.ioc.flag := by
  rw [perform_iocConfig_ioc]
  cases f <;> cases v <;> rfl

/-- Whatever the environment does to the latch bit of M1, a write of that bit hides it. -/
theorem EnvKept.setFlag {s t : State} (h : EnvKept s t) (v : Bool) :
    setBit t.ioc.flag s.cfg.pins.m1.bit v = setBit s.ioc.flag s.cfg.pins.m1.bit v := by
  apply byte_ext
  intro j
  rw [bitAt_setBit, bitAt_setBit]
  split
  · rfl
  · next hj => exact h.flag j hj

/-! ### What is left as it was -/

/-- What the single-step operations leave of the controller's side but for the change interrupt: all but `arm`, `clock_mode`
and the sequencer's position. -/
structure StepFrame (s t : State) : Prop where
  records : RecordsKept s t
  raised : t.raised = s.raised
  result : t.result = s.result
  dir : t.dir = s.dir
  out : t.out = s.out

/-- What they leave of the target's side where no act of the environment comes between; a write window that was left open acts
at each write. -/
structure StepCalm (s t : State) : Prop where
  cfg : t.cfg = s.cfg
  quiet : Quiet t
  lines : SameLines s t
  target : TargetKept s t
  stores : StrobesQuiet s → StoresKept s t

section
variable {s t u : State}

theorem StepFrame.cfg (h : StepFrame s t) : t.cfg = s.cfg := by
  obtain ⟨hcfg, _⟩ := h.records
  exact hcfg

theorem StepFrame.trans (h : StepFrame s t) (k : StepFrame t u) : StepFrame s u where
  records := by
    obtain ⟨h1, h2, h3, h4, h5, h6, h7⟩ := h.records
    obtain ⟨k1, k2, k3, k4, k5, k6, k7⟩ := k.records
    exact ⟨k1.trans h1, k2.trans h2, k3.trans h3, k4.trans h4, k5.trans h5, k6.trans h6, k7.trans h7⟩
  raised := k.raised.trans h.raised
  result := k.result.trans h.result
  dir := k.dir.trans h.dir
  out := k.out.trans h.out

theorem RecordsStand.stepFrame (h : RecordsStand s t) (hdir : t.dir = s.dir) (hout : t.out = s.out) : StepFrame s t := by
  obtain ⟨⟨hcfg, hown, _, _, hfault, hkilled, ht0, hrequests, hconsole⟩, hraised, hresult⟩ := h
  exact ⟨⟨hcfg, hown, hfault, hkilled, ht0, hrequests, hconsole⟩, hraised, hresult, hdir, hout⟩

theorem EnvKept.stepFrame (h : EnvKept s t) : StepFrame s t := h.records.stepFrame h.dir h.out

theorem opReturn_frame (s : State) : StepFrame s (opReturn s) := ⟨⟨rfl, rfl, rfl, rfl, rfl, rfl, rfl⟩, rfl, rfl, rfl, rfl⟩

theorem StepCalm.trans (h : StepCalm s t) (k : StepCalm t u) : StepCalm s u where
  cfg := k.cfg.trans h.cfg
  quiet := k.quiet
  lines := h.lines.trans k.lines
  target := by
    obtain ⟨h1, h2, h3, h4⟩ := h.target
    obtain ⟨k1, k2, k3, k4⟩ := k.target
    exact ⟨k1.trans h1, k2.trans h2, k3.trans h3, k4.trans h4⟩
  stores hs := by
    obtain ⟨h1, h2, h3⟩ := h.stores hs
    obtain ⟨k1, k2, k3⟩ := k.stores (h.lines.strobesQuiet hs)
    exact ⟨k1.trans h1, k2.trans h2, k3.trans h3⟩

theorem QuietLatches.stepCalm (h : QuietLatches s t) : StepCalm s t := ⟨h.cfg, h.quiet, h.lines, h.target, h.stores⟩

/-- An assignment, or a move of the sequencer. -/
theorem SameHardware.stepCalm (h : SameHardware s t) (henv : t.env = s.env) (hquiet : Quiet s) : StepCalm s t :=
  (h.quietLatches henv hquiet).stepCalm

/-- A configuration of the change interrupt changes no line, so that the devices see it only in an open window. -/
theorem perform_iocConfig_calm (g : Signal) (f : IocField) (v : Bool) (hquiet : Quiet s) :
    StepCalm s (perform (.iocConfig g f v) s) := by
  have hkept := perform_kept (.iocConfig g f v) s
  have hlines : SameLines s (storeWrite (.iocBit f (s.cfg.pins.pin g).bit v) s) := by
    cases f <;> exact .of_registers rfl rfl rfl
  have htarget : (storeWrite (.iocBit f (s.cfg.pins.pin g).bit v) s).target = s.target := by cases f <;> rfl
  have hmade : (perform (.iocConfig g f v) s).target =
      (react s (storeWrite (.iocBit f (s.cfg.pins.pin g).bit v) s)).target := rfl
  refine ⟨hkept.cfg, by rwa [Quiet, hkept.env], .of_registers hkept.cfg (perform_dir_eq _ s) (perform_out_eq _ s), ?_,
    fun hs => ?_⟩
  · rw [TargetKept, hmade, (react_sameLines hlines).eq, ← htarget]
    exact ⟨rfl, rfl, rfl, rfl⟩
  · rw [StoresKept, hmade, react_strobesQuiet hlines (hlines.strobesQuiet hs), htarget]
    exact ⟨rfl, rfl, rfl⟩

theorem afterPrim_iocConfig_frame (k : Nat) (g : Signal) (f : IocField) (v : Bool) (s : State) :
    StepFrame s (afterPrim k (.iocConfig g f v) s) :=
  (afterPrim_records k _ s).stepFrame (afterPrim_dir k _ s) (afterPrim_out k _ s)

theorem afterPrim_iocConfig_calm (k : Nat) (g : Signal) (f : IocField) (v : Bool) (hquiet : Quiet s) :
    StepCalm s (afterPrim k (.iocConfig g f v) s) := by
  have hbefore := (boundary_quietLatches hquiet).stepCalm
  have hafter := perform_iocConfig_calm g f v hbefore.quiet
  exact (hbefore.trans hafter).trans ((jumpTo_control _ _).stepCalm rfl hafter.quiet)

theorem afterPrim_iocConfig_trace (k : Nat) (g : Signal) (f : IocField) (v : Bool) (s : State) :
    (afterPrim k (.iocConfig g f v) s).trace = s.trace ++ [.ioc g f v] := afterPrim_trace k rfl s

/-- With an environment that does nothing the latches are the write's alone. -/
theorem afterPrim_iocConfig_flag_quiet (k : Nat) (f : IocField) (v : Bool) (hquiet : Quiet s) :
    (afterPrim k (.iocConfig .m1 f v) s).ioc.flag =
      if f = .en ∧ v = false then setBit s.ioc.flag s.cfg.pins.m1.bit false else s.ioc.flag := by
  have hb := boundary_quietLatches hquiet
  rw [afterPrim, jumpTo_ioc, perform_iocConfig_flag, hb.cfg, hb.ioc]

end

/-! ### `SINGLESTEP_ON` -/

/-- The state after line `k`, step 4 of `SINGLESTEP_ON`, with the boundary before it. -/
def afterArmed (k : Nat) (s : State) : State := jumpTo (k + 1) (setArmed (boundary s).1)

theorem reaches_armed {prog : List ProgLine} {i : Instr} {k : Nat} {s : State} {pos : Pos} (hq : s.seq = .running i k)
    (hl : prog[k]? = some ⟨pos, .armed, none⟩) (hsound : Sound s) : Reaches prog 1 s (afterArmed k s) := by
  have hseq : (afterArmed k s).seq = .running i (k + 1) := jumpTo_running ((boundary_kept s).seq.trans hq) _
  refine .next hq ?_ hseq (Nat.lt_succ_self k)
  rw [tick_line hq hl]
  have hok : (boundary s).2 ≠ .kill := by rw [(boundary_sound hsound).1]; exact nofun
  exact if_neg hok

theorem afterArmed_frame (k : Nat) (s : State) : StepFrame s (afterArmed k s) :=
  (boundary_kept s).stepFrame.trans ⟨⟨rfl, rfl, rfl, rfl, rfl, rfl, rfl⟩, rfl, rfl, rfl, rfl⟩

theorem afterArmed_calm {s : State} (k : Nat) (hquiet : Quiet s) : StepCalm s (afterArmed k s) := by
  have hb := (boundary_quietLatches hquiet).stepCalm
  exact hb.trans (SameHardware.stepCalm ⟨rfl, rfl, rfl, rfl, rfl⟩ rfl hb.quiet)

/-- The three writes of `SINGLESTEP_ON` (R141). -/
def armPrims (c : Params) : List Prim :=
  [.iocConfig .m1 .cmp true, .iocConfig .m1 .dflt (!assertedLevel c .m1), .iocConfig .m1 .en true]

/-- The state after the three writes. -/
def afterSetup (s : State) : State := afterPrims 0 (armPrims s.cfg) (beginOp .singlestepOn s)

/-- The state after `SINGLESTEP_ON` with a sound script. -/
def afterSinglestepOn (s : State) : State := opReturn (afterArmed 3 (afterSetup s))

section
variable {s : State}

theorem execSinglestepOn_sound (hidle : s.seq = .idle) (hsound : Sound s)
    (hmode : s.clockMode = .hardwareFree ∨ s.clockMode = .singleStep) :
    exec .singlestepOn s = .next (afterSinglestepOn s) := by
  have hallowed : allowed s .singlestepOn = true := by simpa [allowed, maySinglestepOn] using hmode
  have hq : (afterSetup s).seq = .running .singlestepOn 3 := afterPrims_seq (s := beginOp .singlestepOn s) rfl _
  have hq' : (afterArmed 3 (afterSetup s)).seq = .running .singlestepOn 4 :=
    jumpTo_running ((boundary_kept _).seq.trans hq) _
  have hwrites : Reaches (programOf s.cfg .singlestepOn) 3 (beginOp .singlestepOn s) (afterSetup s) :=
    reaches_prims (i := .singlestepOn) (ps := armPrims s.cfg) rfl rfl (.cons rfl (.cons rfl (.cons rfl .nil))) hsound
  have harmed : Reaches (programOf s.cfg .singlestepOn) 1 (afterSetup s) _ :=
    reaches_armed hq rfl (afterPrims_sound (s := beginOp .singlestepOn s) hsound _ _)
  have hreturn : Reaches (programOf s.cfg .singlestepOn) 1 _ (afterSinglestepOn s) := .ended hq' (tick_end hq' rfl) rfl
  refine exec_of_reaches trivial hidle hallowed ((hwrites.trans harmed).trans hreturn) ?_ rfl
  simp [programOf, singlestepOnProgram]

theorem afterSinglestepOn_frame (s : State) : StepFrame (beginOp .singlestepOn s) (afterSinglestepOn s) := by
  have hwrites : StepFrame (beginOp .singlestepOn s) (afterSetup s) :=
    ((afterPrim_iocConfig_frame _ _ _ _ _).trans (afterPrim_iocConfig_frame _ _ _ _ _)).trans
      (afterPrim_iocConfig_frame _ _ _ _ _)
  exact (hwrites.trans (afterArmed_frame 3 _)).trans (opReturn_frame _)

theorem afterSinglestepOn_trace (s : State) : (afterSinglestepOn s).trace =
    s.trace ++ [.ioc .m1 .cmp true, .ioc .m1 .dflt (!assertedLevel s.cfg .m1), .ioc .m1 .en true] := by
  show (boundary (afterSetup s)).1.trace = _
  rw [(boundary_kept _).trace, afterSetup, armPrims]
  simp only [afterPrims, afterPrim_iocConfig_trace, beginOp_trace, List.append_assoc, List.cons_append, List.nil_append]

/-- Each of the three writes is of a register of its own. -/
theorem afterSinglestepOn_reg (s : State) (g : IocField) : (afterSinglestepOn s).ioc.reg g =
    setBit (s.ioc.reg g) s.cfg.pins.m1.bit
      (match g with | .dflt => !assertedLevel s.cfg .m1 | .en | .cmp => true) := by
  show (boundary (afterSetup s)).1.ioc.reg g = _
  rw [(boundary_kept _).iocReg, afterSetup, armPrims]
  cases g <;> simp [afterPrims, afterPrim_iocConfig_reg, afterPrim_cfg]

theorem afterSetup_calm (hquiet : Quiet s) : StepCalm s (afterSetup s) ∧ (afterSetup s).ioc.flag = s.ioc.flag := by
  have hbegin : StepCalm s (beginOp .singlestepOn s) := SameHardware.stepCalm ⟨rfl, rfl, rfl, rfl, rfl⟩ rfl hquiet
  have h1 := afterPrim_iocConfig_calm 0 .m1 .cmp true hbegin.quiet
  have h2 := afterPrim_iocConfig_calm 1 .m1 .dflt (!assertedLevel s.cfg .m1) h1.quiet
  have h3 := afterPrim_iocConfig_calm 2 .m1 .en true h2.quiet
  refine ⟨((hbegin.trans h1).trans h2).trans h3, ?_⟩
  have f1 := afterPrim_iocConfig_flag_quiet 0 .cmp true hbegin.quiet
  have f2 := afterPrim_iocConfig_flag_quiet 1 .dflt (!assertedLevel s.cfg .m1) h1.quiet
  have f3 := afterPrim_iocConfig_flag_quiet 2 .en true h2.quiet
  simp only [reduceCtorEq, false_and, and_false, Bool.true_eq_false, if_false] at f1 f2 f3
  exact f3.trans (f2.trans f1)

theorem afterSinglestepOn_calm (hquiet : Quiet s) :
    StepCalm s (afterSinglestepOn s) ∧ (afterSinglestepOn s).ioc.flag = s.ioc.flag := by
  obtain ⟨hsetup, hflag⟩ := afterSetup_calm hquiet
  have harmed := afterArmed_calm 3 hsetup.quiet
  refine ⟨(hsetup.trans harmed).trans ((opReturn_control _).stepCalm rfl harmed.quiet), ?_⟩
  show (boundary (afterSetup s)).1.ioc.flag = _
  rw [(boundary_quietLatches hsetup.quiet).ioc, hflag]

end

/-- Settles O33: three register writes and an assignment, and what they leave is read off them. -/
theorem singlestepOnCompletes : Obligations.SinglestepOnCompletes := by
  intro s _ hidle hsound hmode
  have hframe := afterSinglestepOn_frame s
  refine ⟨_, execSinglestepOn_sound hidle hsound hmode, ⟨rfl, hframe.raised, rfl⟩, rfl, rfl, hframe.records,
    hframe.result, hframe.dir, hframe.out, afterSinglestepOn_reg s .cmp, afterSinglestepOn_reg s .dflt,
    afterSinglestepOn_reg s .en, afterSinglestepOn_trace s, fun hquiet => ?_, fun hgood hquiet => ?_⟩
  · obtain ⟨hcalm, hflag⟩ := afterSinglestepOn_calm hquiet
    exact ⟨hcalm.target, hflag⟩
  · exact (afterSinglestepOn_calm hquiet).1.stores (hgood.strobesQuiet hidle)

/-! ### `SINGLESTEP_OFF`, alone and as the handler of `AUTOSTEP` -/

/-- The state after the two lines of `SINGLESTEP_OFF`, which stand at `k`, and the return after them (R142). -/
def afterDisarm (k : Nat) (s : State) : State :=
  opReturn (jumpTo (k + 2) (setDisarmed (afterPrim k (.iocConfig .m1 .en false) s)))

theorem untaken_of_not_cancellable {i : Instr} {k : Nat} {s : State} (hq : s.seq = .running i k)
    (h : cancellable (.running i k) = false) : Untaken s := by
  rw [Untaken, (boundary_kept s).seq, hq, h, Bool.false_and]

/-- The lines of `SINGLESTEP_OFF` stand at `k`, the last of the program, and no cancellation is taken there. -/
structure DisarmsAt (prog : List ProgLine) (i : Instr) (k : Nat) : Prop where
  write : prog[k]? = some (ln .singlestepOff 1 0 (.prim (.iocConfig .m1 .en false)))
  assign : prog[k + 1]? = some (ln .singlestepOff 3 0 .disarmed)
  last : prog[k + 2]? = none
  uncancelled : cancellable (.running i k) = false

theorem disarmsAt_singlestepOff (c : Params) : DisarmsAt (programOf c .singlestepOff) .singlestepOff 0 :=
  ⟨rfl, rfl, rfl, rfl⟩

/-- The handler of R147. -/
theorem disarmsAt_autostep (c : Params) (r : Quantity) : DisarmsAt (programOf c (.autostep r)) (.autostep r) 5 :=
  ⟨rfl, rfl, rfl, rfl⟩

section
variable {prog : List ProgLine} {i : Instr} {k : Nat} {s : State}

theorem DisarmsAt.reaches (h : DisarmsAt prog i k) (hq : s.seq = .running i k) (hok : (boundary s).2 = .ok) :
    Reaches prog 3 s (afterDisarm k s) := by
  have hq1 := afterPrim_seq hq (.iocConfig .m1 .en false)
  have hq2 : (jumpTo (k + 2) (setDisarmed (afterPrim k (.iocConfig .m1 .en false) s))).seq = .running i (k + 2) :=
    jumpTo_running hq1 _
  have hwrite : Reaches prog 1 s (afterPrim k (.iocConfig .m1 .en false) s) :=
    .next hq (tick_prim (untaken_of_not_cancellable hq h.uncancelled) hok hq h.write) hq1 (Nat.lt_succ_self k)
  have hassign : Reaches prog 1 _ (jumpTo (k + 2) (setDisarmed (afterPrim k (.iocConfig .m1 .en false) s))) :=
    .next hq1 (tick_line hq1 h.assign) hq2 (Nat.lt_succ_self _)
  exact (hwrite.trans hassign).trans (.ended hq2 (tick_end hq2 h.last) rfl)

theorem jump_setDisarmed_frame (k : Nat) (s : State) : StepFrame s (jumpTo k (setDisarmed s)) :=
  ⟨⟨rfl, rfl, rfl, rfl, rfl, rfl, rfl⟩, rfl, rfl, rfl, rfl⟩

theorem afterDisarm_frame (k : Nat) (s : State) : StepFrame s (afterDisarm k s) :=
  ((afterPrim_iocConfig_frame k .m1 .en false s).trans (jump_setDisarmed_frame _ _)).trans (opReturn_frame _)

theorem afterDisarm_trace (k : Nat) (s : State) : (afterDisarm k s).trace = s.trace ++ [.ioc .m1 .en false] :=
  afterPrim_iocConfig_trace k .m1 .en false s

theorem afterDisarm_reg (k : Nat) (s : State) (g : IocField) : (afterDisarm k s).ioc.reg g =
    if g = .en then setBit (s.ioc.reg g) s.cfg.pins.m1.bit false else s.ioc.reg g :=
  afterPrim_iocConfig_reg k .en g false s

/-- The latch bit of M1 is clear, whatever the environment did before the write. -/
theorem afterDisarm_flag (k : Nat) (s : State) :
    (afterDisarm k s).ioc.flag = setBit s.ioc.flag s.cfg.pins.m1.bit false := by
  have hb := boundary_kept s
  show (perform (.iocConfig .m1 .en false) (boundary s).1).ioc.flag = _
  rw [perform_iocConfig_flag, if_pos ⟨rfl, rfl⟩, hb.cfg, hb.setFlag]

theorem afterDisarm_clockMode (k : Nat) (s : State) :
    (afterDisarm k s).clockMode = if s.clockMode = .singleStep then .hardwareFree else s.clockMode := by
  obtain ⟨_, _, hmode, _⟩ := (afterPrim_records k (.iocConfig .m1 .en false) s).flags
  rw [afterDisarm, opReturn_clockMode, jumpTo_clockMode, setDisarmed_clockMode, hmode]

theorem halted_of_disarmed (h : s.arm = .disarmed) : halted s = false := by simp [halted, h]

theorem afterDisarm_calm (k : Nat) (hquiet : Quiet s) : StepCalm s (afterDisarm k s) := by
  have hwrite := afterPrim_iocConfig_calm k .m1 .en false hquiet
  have hassign (u : State) : SameHardware u (opReturn (jumpTo (k + 2) (setDisarmed u))) := ⟨rfl, rfl, rfl, rfl, rfl⟩
  exact hwrite.trans ((hassign _).stepCalm rfl hwrite.quiet)

end

/-- What `SINGLESTEP_OFF` leaves of `s`, on its own or as the handler of an `AUTOSTEP` that makes no iteration. -/
structure DisarmedFrom (s t : State) : Prop where
  returned : Returned t
  arm : t.arm = .disarmed
  clockMode : t.clockMode = if s.clockMode = .singleStep then .hardwareFree else s.clockMode
  records : RecordsKept s t
  result : t.result = s.result
  dir : t.dir = s.dir
  out : t.out = s.out
  cmp : t.ioc.cmp = s.ioc.cmp
  dflt : t.ioc.dflt = s.ioc.dflt
  en : t.ioc.en = setBit s.ioc.en s.cfg.pins.m1.bit false
  flag : t.ioc.flag = setBit s.ioc.flag s.cfg.pins.m1.bit false
  trace : t.trace = s.trace ++ [.ioc .m1 .en false]
  target : Quiet s → TargetKept s t
  stores : Good s → Quiet s → StoresKept s t

/-- The lines begin in a state that differs from `s` in the sequencer alone. -/
theorem disarmedFrom_afterDisarm {s : State} (hidle : s.seq = .idle) (k : Nat) (q : Seq) :
    DisarmedFrom s (afterDisarm k { s with seq := q, polls := 0, raised := none }) := by
  have hbegin (hquiet : Quiet s) : StepCalm s { s with seq := q, polls := 0, raised := none } :=
    SameHardware.stepCalm ⟨rfl, rfl, rfl, rfl, rfl⟩ rfl hquiet
  have hcalm (hquiet : Quiet s) := (hbegin hquiet).trans (afterDisarm_calm k (hbegin hquiet).quiet)
  obtain ⟨hrecords, hraised, hresult, hdir, hout⟩ := afterDisarm_frame k { s with seq := q, polls := 0, raised := none }
  have hreg := afterDisarm_reg k { s with seq := q, polls := 0, raised := none }
  exact {
    returned := ⟨rfl, hraised, rfl⟩
    arm := rfl
    clockMode := afterDisarm_clockMode _ _
    records := hrecords
    result := hresult
    dir := hdir
    out := hout
    cmp := hreg .cmp
    dflt := hreg .dflt
    en := hreg .en
    flag := afterDisarm_flag _ _
    trace := afterDisarm_trace _ _
    target := fun hquiet => (hcalm hquiet).target
    stores := fun hgood hquiet => (hcalm hquiet).stores (hgood.strobesQuiet hidle) }

/-- `SINGLESTEP_OFF` with a sound script. -/
theorem execSinglestepOff_sound {s : State} (hidle : s.seq = .idle) (hsound : Sound s) :
    exec .singlestepOff s = .next (afterDisarm 0 (beginOp .singlestepOff s)) := by
  refine exec_of_reaches trivial hidle rfl
    ((disarmsAt_singlestepOff s.cfg).reaches (s := beginOp .singlestepOff s) rfl
      (boundary_sound (s := beginOp .singlestepOff s) hsound).1) ?_ rfl
  simp [programOf, singlestepOffProgram, singlestepOffLines]

/-- Settles O34: one register write and an assignment. -/
theorem singlestepOffCompletes : Obligations.SinglestepOffCompletes := by
  intro s _ hidle hsound
  have h := disarmedFrom_afterDisarm hidle 0 (.running .singlestepOff 0)
  exact ⟨_, execSinglestepOff_sound hidle hsound, h.returned, h.arm, halted_of_disarmed h.arm, h.clockMode, h.records,
    h.result, h.dir, h.out, h.cmp, h.dflt, h.en, h.flag, h.trace, h.target, h.stores⟩

/-- `AUTOSTEP` while Disarmed leaves its loop at once (R146). -/
theorem execAutostep_disarmed {s : State} {r : Quantity} (hidle : s.seq = .idle) (harm : s.arm = .disarmed)
    (hsound : Sound s) (hr : 0 < r) :
    exec (.autostep r) s = .next (afterDisarm 5 (jumpTo 5 (beginOp (.autostep r) s))) := by
  have hexit : Reaches (programOf s.cfg (.autostep r)) 1 (beginOp (.autostep r) s) (jumpTo 5 (beginOp (.autostep r) s)) := by
    refine .next (i := .autostep r) (k := 0) (j := .autostep r) (m := 5) rfl ?_ rfl (by decide)
    rw [tick_line (i := .autostep r) (k := 0) rfl rfl]
    have hnot : ¬ isArmed (beginOp (.autostep r) s) = true := by simp [isArmed, harm]
    exact if_neg hnot
  have hhandler := (disarmsAt_autostep s.cfg r).reaches (s := jumpTo 5 (beginOp (.autostep r) s)) rfl
    (boundary_sound (s := jumpTo 5 (beginOp (.autostep r) s)) hsound).1
  refine exec_of_reaches (Rat.num_pos.mpr hr) hidle rfl (hexit.trans hhandler) ?_ rfl
  simp [programOf, autostepProgram, stepWaitLines, singlestepOffLines]
  omega

/-- Settles O37: the loop's first line leads to the handler. -/
theorem autostepDisarmed : Obligations.AutostepDisarmed := by
  intro s r _ hidle harm hsound hr
  have h := disarmedFrom_afterDisarm hidle 5 (.running (.autostep r) 5)
  exact ⟨_, execAutostep_disarmed hidle harm hsound hr, h.returned, h.arm, h.clockMode, h.records, h.result, h.dir, h.out,
    h.cmp, h.dflt, h.en, h.flag, h.trace, h.target, h.stores⟩

end Sys2Proof.Machine
end

section
/-! The step waits (R144, R145): polls of M1's latch and of M1, with the boundaries at which the target begins a fetch and
completes it. -/

namespace Sys2Proof.Machine

/-! ### What the waits leave -/

/-- What the reads of the step waits and the target's fetches leave: all but the sequencer's position, the latches, the free
values drawn, and M1, the processor and the clock edge of the target; `evs` are recorded. -/
structure Waited (evs : List Event) (s t : State) : Prop where
  records : RecordsStand s t
  cancel : t.cancel = s.cancel
  now : t.now = s.now
  dir : t.dir = s.dir
  out : t.out = s.out
  setup : IocSetupKept s t
  target : t.target = { s.target with m1 := t.target.m1, cpu := t.target.cpu, edge := t.target.edge }
  trace : t.trace = s.trace ++ evs

/-- What the waits need of the registers: M1 is read, its change interrupt is enabled, and neither RESET nor the clock keeps
the target from its next fetch. -/
structure Stepping (s : State) : Prop where
  pins : s.cfg.pins.WellFormed
  input : isOutput s (s.cfg.pins.pin .m1) = false
  reset : asserts s .reset = false
  clken : asserts s .clken = true
  en : m1Bit s s.ioc.en = true
  cmp : m1Bit s s.ioc.cmp = true

section
variable {s t u : State} {evs evs' : List Event}

theorem Waited.trans (h : Waited evs s t) (k : Waited evs' t u) : Waited (evs ++ evs') s u where
  records := h.records.trans k.records
  cancel := k.cancel.trans h.cancel
  now := k.now.trans h.now
  dir := k.dir.trans h.dir
  out := k.out.trans h.out
  setup := by
    obtain ⟨hen, hdflt, hcmp⟩ := h.setup
    obtain ⟨ken, kdflt, kcmp⟩ := k.setup
    exact ⟨ken.trans hen, kdflt.trans hdflt, kcmp.trans hcmp⟩
  target := by rw [k.target, h.target]
  trace := by rw [k.trace, h.trace, List.append_assoc]

/-- Nothing but the sequencer's position, the latches, and M1, the processor and the clock edge of the target differs. -/
theorem Waited.of_eq (flag : Byte) (m1 : Bool) (cpu : TargetCpu) (edge : Bool)
    (hu : u = { s with
      ioc := { s.ioc with flag := flag }, target := { s.target with m1 := m1, cpu := cpu, edge := edge }
      seq := u.seq, polls := u.polls, env := u.env }) : Waited [] s u := by
  rw [hu]
  exact ⟨⟨⟨rfl, rfl, rfl, rfl, rfl, rfl, rfl, rfl, rfl⟩, rfl, rfl⟩, rfl, rfl, rfl, rfl, ⟨rfl, rfl, rfl⟩, rfl,
    (List.append_nil _).symm⟩

theorem Waited.refl (s : State) : Waited [] s s := .of_eq s.ioc.flag s.target.m1 s.target.cpu s.target.edge rfl

theorem Stepping.congr (h : Stepping s) (hcfg : t.cfg = s.cfg) (hdir : t.dir = s.dir) (hout : t.out = s.out)
    (hen : t.ioc.en = s.ioc.en) (hcmp : t.ioc.cmp = s.ioc.cmp) : Stepping t := by
  have hlines : SameLines s t := .of_registers hcfg hdir hout
  refine ⟨?_, ?_, (hlines.asserts _).trans h.reset, (hlines.asserts _).trans h.clken, ?_, ?_⟩
  · rw [hcfg]
    exact h.pins
  · rw [hcfg, isOutput_congr hcfg hdir]
    exact h.input
  · rw [m1Bit, hcfg, hen]
    exact h.en
  · rw [m1Bit, hcfg, hcmp]
    exact h.cmp

theorem Stepping.waited (h : Stepping s) (k : Waited evs s t) : Stepping t := by
  obtain ⟨hen, _, hcmp⟩ := k.setup
  exact h.congr k.records.flags.1 k.dir k.out hen hcmp

/-- While Armed the invariant gives it (I-ARM, I-CLK). -/
theorem Good.stepping (hs : Good s) (hidle : s.seq = .idle) (harm : s.arm = .armed) : Stepping s := by
  obtain ⟨_, hreset⟩ := hs.target
  obtain ⟨_, hclken⟩ := hs.clock.1 (by rw [hidle]; rfl)
  obtain ⟨_, hcmp, hen, _⟩ := hs.arming
  rw [hidle] at hreset hen
  refine ⟨hs.params.1, hs.roles.2 .m1 (by decide), by rw [asserts, hreset]; rfl, by rw [asserts, hclken]; rfl, ?_,
    hcmp (.inl harm)⟩
  rw [hen, harm]
  rfl

/-- A target that is not caught makes progress. -/
theorem Stepping.canRun (h : Stepping s) (hfree : halted s = false) : canRun s = true := by
  simp [Machine.canRun, hfree, h.reset, h.clken]

/-! ### Boundaries -/

theorem IdleFor.waited {n : Nat} (h : IdleFor (n + 1) s) : Waited [] s (Machine.boundary s).1 := by
  rw [h.boundary]
  exact .of_eq s.ioc.flag s.target.m1 s.target.cpu false rfl

theorem applyAct_m1Deassert (h : Stepping s) (hfree : halted s = false) :
    applyAct s .m1Deassert = { s with target := { s.target with m1 := false } } := by
  simp [applyAct, hfree, h.canRun hfree]

/-- The fetch in progress completes. -/
theorem boundary_m1Deassert {rest : List Slot} (h : Stepping s) (henv : s.env = slotOf .m1Deassert :: rest)
    (hfree : halted s = false) :
    boundary s = ({ s with env := rest, target := { s.target with m1 := false, edge := false } }, .ok) := by
  have hact := applyAct_m1Deassert (s := { s with env := rest }) (h.congr rfl rfl rfl rfl rfl) hfree
  rw [boundary_cons henv]
  show (spendEdge (applyAct { s with env := rest } .m1Deassert), Fate.ok) = _
  rw [hact]
  rfl

/-- The target begins its next fetch and is caught (R24, R59). -/
theorem applyAct_m1Assert (h : Stepping s) (hbus : s.target.ownsBus = true) (hm1 : s.target.m1 = false)
    (hfree : halted s = false) :
    applyAct s .m1Assert =
      { s with
        target := { s.target with m1 := true, cpu := fetched s.target.cpu }
        ioc := { s.ioc with flag := setBit s.ioc.flag s.cfg.pins.m1.bit true } } := by
  have hen : bitAt s.ioc.en s.cfg.pins.m1.bit = true := h.en
  have hcmp : bitAt s.ioc.cmp s.cfg.pins.m1.bit = true := h.cmp
  have hfetch : applyAct s .m1Assert = beginFetch s := by simp [applyAct, hbus, hm1, h.canRun hfree]
  rw [hfetch]
  unfold beginFetch
  simp only [hen, hcmp, Bool.and_self, if_true]
  cases s.target.cpu <;> rfl

/-- A fetch begins where none is in progress, or where the one in progress completes first. -/
theorem boundary_fetch {acts : List EnvAct} {rest : List Slot} (h : Stepping s) (henv : s.env = ⟨acts, .ok⟩ :: rest)
    (hacts : s.target.m1 = false ∧ acts = [.m1Assert] ∨ acts = [.m1Deassert, .m1Assert])
    (hbus : s.target.ownsBus = true) (hfree : halted s = false) :
    boundary s = ({ s with
      env := rest
      target := { s.target with m1 := true, cpu := fetched s.target.cpu, edge := false }
      ioc := { s.ioc with flag := setBit s.ioc.flag s.cfg.pins.m1.bit true } }, .ok) := by
  have hbegun : applyAct { s with env := rest, target := { s.target with m1 := false } } .m1Assert = _ :=
    applyAct_m1Assert (h.congr rfl rfl rfl rfl rfl) hbus rfl hfree
  have hdone : applyActs { s with env := rest } acts =
      applyAct { s with env := rest, target := { s.target with m1 := false } } .m1Assert := by
    rcases hacts with ⟨hm1, rfl⟩ | rfl
    · have hself : ({ s.target with m1 := false } : Target) = s.target := by rw [← hm1]
      rw [hself]
      rfl
    · have hends := applyAct_m1Deassert (s := { s with env := rest }) (h.congr rfl rfl rfl rfl rfl) hfree
      show applyAct (applyAct { s with env := rest } .m1Deassert) .m1Assert = _
      rw [hends]
  rw [boundary_cons henv]
  show (spendEdge (applyActs { s with env := rest } acts), Fate.ok) = _
  rw [hdone, hbegun]
  rfl

/-! ### Reads -/

/-- The two reads of the step waits. -/
def ReadsM1 (p : Prim) : Prop := p = .sample .m1 ∨ p = .iocFlag .m1

theorem perform_read_target {p : Prim} (hp : ReadsM1 p) (s : State) : (perform p s).target = s.target := by
  rcases hp with rfl | rfl <;> rfl

theorem perform_waited {p : Prim} (hp : ReadsM1 p) (s : State) : Waited [eventOf p s] s (perform p s) := by
  have hkept := perform_kept p s
  obtain ⟨hen, hdflt, hcmp⟩ := perform_ioc_other (p := p) (by rcases hp with rfl | rfl <;> simp) s
  refine ⟨hkept.records, hkept.cancel, hkept.now, ?_, ?_, ⟨hen, hdflt, hcmp⟩, by rw [perform_read_target hp],
    perform_trace p s⟩ <;> rcases hp with rfl | rfl <;> rfl

/-- A sample of M1 clears the latches of its port (R24). -/
theorem perform_sampleM1_flag (s : State) : (perform (.sample .m1) s).ioc.flag = 0x00#8 := by
  show (touchPort (s.cfg.pins.pin .m1).port s).ioc.flag = _
  rw [touchPort_ioc]
  exact congrArg Ioc.flag (if_pos rfl)

theorem failedSample_waited {p : Prim} (hp : ReadsM1 p) (hb : Waited [] s (boundary s).1) :
    Waited [eventOf p (boundary s).1] s (failedSample p s) := by
  have h := hb.trans (perform_waited hp (boundary s).1)
  exact ⟨failedSample_records p s, h.cancel, h.now, h.dir, h.out, h.setup, h.target, h.trace⟩

theorem afterPrim_waited {p : Prim} (hp : ReadsM1 p) (hb : Waited [] s (boundary s).1) (k : Nat) :
    Waited [eventOf p (boundary s).1] s (afterPrim k p s) := by
  have h := hb.trans (perform_waited hp (boundary s).1)
  exact ⟨afterPrim_records k p s, h.cancel, h.now, h.dir, h.out, h.setup, h.target, h.trace⟩

theorem afterPrim_read_target {p : Prim} (hp : ReadsM1 p) (k : Nat) (s : State) :
    (afterPrim k p s).target = (boundary s).1.target := perform_read_target hp _

/-- Outside a scope, or with no cancellation pending or raised, none is taken. -/
theorem untaken_of_waited {i : Instr} {k : Nat} (hscope : scopeHandler i = none ∨ s.cancel = false)
    (hq : s.seq = .running i k) (hb : Waited [] s (boundary s).1) : Untaken s := by
  rcases hscope with hscope | hcancel
  · exact untaken_of_scopeless hscope hq
  · rw [Untaken, hb.cancel, hcancel, Bool.and_false]

/-! ### Reads that fail -/

/-- `t` is `s` after `n` more failed reads of a step wait, with idle boundaries before them. -/
structure Failed (p : Prim) (e : Event) (n : Nat) (s t : State) : Prop where
  waited : Waited (List.replicate n e) s t
  seq : t.seq = s.seq
  polls : t.polls = s.polls + n
  env : t.env = s.env.drop n
  m1 : t.target.m1 = s.target.m1
  cpu : t.target.cpu = s.target.cpu
  unlatched : flagLatched s .m1 = false → flagLatched t .m1 = false
  sampled : p = .sample .m1 → 0 < n → flagLatched t .m1 = false

variable {p : Prim} {e : Event}

theorem Failed.refl (p : Prim) (e : Event) (s : State) : Failed p e 0 s s :=
  ⟨.refl s, rfl, rfl, rfl, rfl, rfl, id, fun _ h => absurd h (Nat.lt_irrefl 0)⟩

theorem flagLatched_congr (hcfg : t.cfg = s.cfg) (hioc : t.ioc = s.ioc) : flagLatched t .m1 = flagLatched s .m1 := by
  unfold flagLatched
  rw [hcfg, hioc]

/-- One more failed read. -/
theorem Failed.succ {n : Nat} (h : Failed p e n s t) (hp : ReadsM1 p) (hidle : IdleFor 1 t)
    (hevent : eventOf p (boundary t).1 = e) : Failed p e (n + 1) s (failedSample p t) := by
  have hboundary := IdleFor.boundary (n := 0) hidle
  have hread := failedSample_waited hp (IdleFor.waited (n := 0) hidle)
  rw [hevent] at hread
  have htarget : (failedSample p t).target = { t.target with edge := false } := by
    show (perform p (boundary t).1).target = _
    rw [perform_read_target hp, hboundary]
    rfl
  have hsampled (e : p = .sample .m1) : flagLatched (failedSample p t) .m1 = false := by
    subst e
    show bitAt (perform (.sample .m1) (boundary t).1).ioc.flag _ = false
    rw [perform_sampleM1_flag]
    exact bitAt_zero _
  exact {
    waited := by rw [List.replicate_succ']; exact h.waited.trans hread
    seq := (failedSample_seq p t).trans h.seq
    polls := by
      show t.polls + 1 = _
      rw [h.polls, Nat.add_assoc]
    env := by rw [failedSample_env, h.env, List.tail_drop]
    m1 := by rw [htarget]; exact h.m1
    cpu := by rw [htarget]; exact h.cpu
    unlatched := fun hs => by
      rcases hp with e | rfl
      · exact hsampled e
      · refine (flagLatched_congr hread.records.flags.1 ?_).trans (h.unlatched hs)
        show (boundary t).1.ioc = t.ioc
        rw [hboundary]
        rfl
    sampled := fun e _ => hsampled e }

section
variable {prog : List ProgLine} {i : Instr} {k : Nat} {l : ProgLine} {ready : State → Bool} {w : Wait} {c : Option Nat}

/-- WHILE ITS READS FAIL a step wait takes one after another (R98). -/
theorem reaches_failedReads (hl : PollLine l p ready w c) (hk : prog[k]? = some l) (hp : ReadsM1 p)
    (hscope : scopeHandler i = none ∨ s.cancel = false) (hq : s.seq = .running i k) {n : Nat} (hidle : IdleFor n s)
    (hleft : n < s.env.length) (hlimit : ∀ m ∈ s.cfg.pollLimit, s.polls + n < m)
    (hfails : ∀ m u, Failed p e m s u → IdleFor 1 u → ready (boundary u).1 = false ∧ eventOf p (boundary u).1 = e) :
    ∃ t, Reaches prog n s t ∧ Failed p e n s t := by
  induction n with
  | zero => exact ⟨s, .refl, .refl p e s⟩
  | succ n ih =>
    obtain ⟨t, hreach, ht⟩ := ih (hidle.mono (Nat.le_succ n)) (by omega) fun m hm => by
      have := hlimit m hm
      omega
    have hidle1 : IdleFor 1 t := IdleFor.drop hidle ht.env
    obtain ⟨hready, hevent⟩ := hfails n t ht hidle1
    have hq' := ht.seq.trans hq
    have hpatient : Patient t := fun m hm => by
      rw [ht.waited.records.flags.1] at hm
      have := hlimit m hm
      rw [ht.polls]
      omega
    have htick : tick prog t = failedSample p t :=
      tick_poll_failed hl hq' hk
        (untaken_of_waited (hscope.imp_right fun h => ht.waited.cancel.trans h) hq' (IdleFor.waited (n := 0) hidle1))
        (by rw [IdleFor.boundary (n := 0) hidle1]) hready hpatient
    have hnext := ht.succ hp hidle1 hevent
    refine ⟨_, hreach.trans (.of_tick hq' htick (parked_script ?_)), hnext⟩
    rw [← List.length_pos_iff_ne_nil, hnext.env, List.length_drop]
    omega

/-! ### Waits that end -/

/-- In `n` ticks the waits lead from `s` to `t` at line `j`, with `n` boundaries used. -/
structure WaitDone (prog : List ProgLine) (i : Instr) (j n : Nat) (evs : List Event) (s t : State) : Prop where
  reaches : Reaches prog n s t
  waited : Waited evs s t
  seq : t.seq = .running i j
  polls : t.polls = 0
  env : t.env = s.env.drop n

theorem WaitDone.trans {j n m : Nat} (h : WaitDone prog i k n evs s t) (h' : WaitDone prog i j m evs' t u) :
    WaitDone prog i j (n + m) (evs ++ evs') s u :=
  ⟨h.reaches.trans h'.reaches, h.waited.trans h'.waited, h'.seq, h'.polls, by rw [h'.env, h.env, List.drop_drop]⟩

/-- After `n` failed reads the one that succeeds. -/
theorem Failed.done {n : Nat} (h : Failed p e n s t) (hreach : Reaches prog n s t) (hl : PollLine l p ready w c)
    (hk : prog[k]? = some l) (hp : ReadsM1 p) (hscope : scopeHandler i = none ∨ s.cancel = false)
    (hq : s.seq = .running i k) (hb : Waited [] t (boundary t).1) (hok : (boundary t).2 = .ok)
    (hready : ready (boundary t).1 = true) :
    WaitDone prog i (k + 1) (n + 1) (List.replicate n e ++ [eventOf p (boundary t).1]) s (afterPrim k p t) := by
  have hq' := h.seq.trans hq
  have hu := untaken_of_waited (hscope.imp_right fun h' => h.waited.cancel.trans h') hq' hb
  refine ⟨hreach.trans (reaches_poll_ready hl hq' hk hu hok hready), h.waited.trans (afterPrim_waited hp hb k),
    afterPrim_seq hq' p, rfl, ?_⟩
  rw [afterPrim_env, h.env, List.tail_drop]

/-! ### The wait for M1 -/

theorem Stepping.senses_m1 (h : Stepping s) : sensed s .m1 = s.target.m1 := sensed_m1 h.pins h.input

/-- After `n` samples the fetch completes, or M1 is de-asserted already, and the next sample reads so. -/
structure M1Completes (rest : List Slot) (n : Nat) (s : State) : Prop where
  stepping : Stepping s
  polls : s.polls = 0
  limit : ∀ l ∈ s.cfg.pollLimit, n < l
  world : (s.target.m1 = true ∧ (flagLatched s .m1 = true → 0 < n) ∧
      s.env = List.replicate n idleSlot ++ slotOf .m1Deassert :: rest) ∨
    s.target.m1 = false ∧ n = 0 ∧ IdleFor 1 s

/-- The samples that read asserted, and the boundary at which M1 de-asserts. -/
theorem M1Completes.exists_failed {rest : List Slot} {n : Nat} {pos : Pos} (h : M1Completes rest n s)
    (hl : prog[k]? = some ⟨pos, .poll .m1 false .levelWait none, none⟩)
    (hscope : scopeHandler i = none ∨ s.cancel = false) (hq : s.seq = .running i k) :
    ∃ t, Reaches prog n s t ∧ Failed (.sample .m1) (.sampleSig .m1 true) n s t ∧ Waited [] t (boundary t).1 ∧
      (boundary t).2 = .ok ∧ (boundary t).1.target.m1 = false ∧ (boundary t).1.target.cpu = s.target.cpu := by
  rcases h.world with ⟨hm1, hpos, henv⟩ | ⟨hm1, rfl, hidle⟩
  · obtain ⟨t, hreach, ht⟩ := reaches_failedReads (n := n) (e := .sampleSig .m1 true)
      (pollLine_poll pos .m1 false .levelWait none) hl (.inl rfl) hscope hq (idleFor_of_replicate henv le_rfl)
      (by simp [henv]) (by rw [h.polls, Nat.zero_add]; exact h.limit) fun m u hu hidle => by
        have hsensed : sensed (boundary u).1 .m1 = true := by
          rw [((h.stepping.waited hu.waited).waited (IdleFor.waited (n := 0) hidle)).senses_m1,
            IdleFor.boundary (n := 0) hidle]
          exact hu.m1.trans hm1
        exact ⟨by rw [senses, hsensed]; rfl, by rw [eventOf, hsensed]⟩
    have hlatch : flagLatched t .m1 = false := by
      rcases Nat.eq_zero_or_pos n with rfl | hn
      · exact ht.unlatched (Bool.eq_false_iff.mpr fun hlatched => absurd (hpos hlatched) (Nat.lt_irrefl 0))
      · exact ht.sampled rfl hn
    have hboundary := boundary_m1Deassert (rest := rest) (h.stepping.waited ht.waited) (by rw [ht.env, henv]; simp)
      (halted_of_latch hlatch)
    refine ⟨t, hreach, ht, ?_, ?_⟩ <;> rw [hboundary]
    · exact .of_eq t.ioc.flag false t.target.cpu false rfl
    · exact ⟨rfl, rfl, ht.cpu⟩
  · refine ⟨s, .refl, .refl _ _ s, IdleFor.waited (n := 0) hidle, ?_⟩
    rw [IdleFor.boundary (n := 0) hidle]
    exact ⟨rfl, hm1, rfl⟩

/-- THE WAIT FOR M1 ENDS with the sample that reads it de-asserted (R144). -/
theorem M1Completes.exists_done {rest : List Slot} {n : Nat} {pos : Pos} (h : M1Completes rest n s)
    (hl : prog[k]? = some ⟨pos, .poll .m1 false .levelWait none, none⟩)
    (hscope : scopeHandler i = none ∨ s.cancel = false) (hq : s.seq = .running i k) :
    ∃ t, WaitDone prog i (k + 1) (n + 1) (levelEvents n) s t ∧ t.target.m1 = false ∧ t.target.cpu = s.target.cpu ∧
      t.ioc.flag = 0x00#8 := by
  obtain ⟨t, hreach, ht, hb, hok, hm1, hcpu⟩ := h.exists_failed hl hscope hq
  have hsensed : sensed (boundary t).1 .m1 = false := by
    rw [((h.stepping.waited ht.waited).waited hb).senses_m1]
    exact hm1
  have hdone := ht.done hreach (pollLine_poll pos .m1 false .levelWait none) hl (.inl rfl) hscope hq hb hok
    (by rw [senses, hsensed]; rfl)
  rw [eventOf, hsensed] at hdone
  have htarget := afterPrim_read_target (p := .sample .m1) (.inl rfl) k t
  exact ⟨_, hdone, by rw [htarget]; exact hm1, by rw [htarget]; exact hcpu, perform_sampleM1_flag _⟩

/-! ### The wait for the latch -/

/-- After `m` reads of the latch the target begins a fetch and is caught, or it is latched already; `b` and `cpu` are then M1
and what is known of the processor. -/
structure FlagCompletes (rest : List Slot) (m : Nat) (b : Bool) (cpu : TargetCpu) (s : State) : Prop where
  stepping : Stepping s
  polls : s.polls = 0
  limit : ∀ l ∈ s.cfg.pollLimit, m < l
  world : (flagLatched s .m1 = false ∧ s.target.ownsBus = true ∧ b = true ∧ cpu = fetched s.target.cpu ∧
      ∃ acts, (s.target.m1 = false ∧ acts = [.m1Assert] ∨ acts = [.m1Deassert, .m1Assert]) ∧
        s.env = List.replicate m idleSlot ++ ⟨acts, .ok⟩ :: rest) ∨
    flagLatched s .m1 = true ∧ m = 0 ∧ b = s.target.m1 ∧ cpu = s.target.cpu ∧ IdleFor 1 s

/-- The reads that find the latch clear, and the boundary after which it is set. -/
theorem FlagCompletes.exists_failed {rest : List Slot} {m : Nat} {b : Bool} {cpu : TargetCpu} {pos : Pos}
    (h : FlagCompletes rest m b cpu s) (hl : prog[k]? = some ⟨pos, .pollFlag, none⟩)
    (hscope : scopeHandler i = none ∨ s.cancel = false) (hq : s.seq = .running i k) :
    ∃ t, Reaches prog m s t ∧ Failed (.iocFlag .m1) (.flag .m1 false) m s t ∧ Waited [] t (boundary t).1 ∧
      (boundary t).2 = .ok ∧ flagLatched (boundary t).1 .m1 = true ∧ (boundary t).1.target.m1 = b ∧
      (boundary t).1.target.cpu = cpu := by
  rcases h.world with ⟨hclear, hbus, rfl, rfl, acts, hacts, henv⟩ | ⟨hset, rfl, rfl, rfl, hidle⟩
  · obtain ⟨t, hreach, ht⟩ := reaches_failedReads (n := m) (e := .flag .m1 false) (pollLine_flag pos) hl (.inr rfl)
      hscope hq (idleFor_of_replicate henv le_rfl) (by simp [henv]) (by rw [h.polls, Nat.zero_add]; exact h.limit)
      fun j u hu hidle => by
        have hunset : flagLatched (boundary u).1 .m1 = false := by
          rw [IdleFor.boundary (n := 0) hidle]
          exact hu.unlatched hclear
        exact ⟨hunset, by rw [eventOf, hunset]⟩
    have hboundary := boundary_fetch (acts := acts) (rest := rest) (h.stepping.waited ht.waited) (by rw [ht.env, henv]; simp)
      (by rw [ht.m1]; exact hacts) (by rw [ht.waited.target]; exact hbus) (halted_of_latch (ht.unlatched hclear))
    refine ⟨t, hreach, ht, ?_, ?_⟩ <;> rw [hboundary]
    · exact .of_eq (setBit t.ioc.flag t.cfg.pins.m1.bit true) true (fetched t.target.cpu) false rfl
    · exact ⟨rfl, bitAt_setBit_same _ _ _, rfl, congrArg fetched ht.cpu⟩
  · refine ⟨s, .refl, .refl _ _ s, IdleFor.waited (n := 0) hidle, ?_⟩
    rw [IdleFor.boundary (n := 0) hidle]
    exact ⟨rfl, hset, rfl, rfl⟩

/-- THE WAIT FOR THE LATCH ENDS with the read that finds it set (R145). -/
theorem FlagCompletes.exists_done {rest : List Slot} {m : Nat} {b : Bool} {cpu : TargetCpu} {pos : Pos}
    (h : FlagCompletes rest m b cpu s) (hl : prog[k]? = some ⟨pos, .pollFlag, none⟩)
    (hscope : scopeHandler i = none ∨ s.cancel = false) (hq : s.seq = .running i k) :
    ∃ t, WaitDone prog i (k + 1) (m + 1) (List.replicate m (.flag .m1 false) ++ [.flag .m1 true]) s t ∧
      t.target.m1 = b ∧ t.target.cpu = cpu := by
  obtain ⟨t, hreach, ht, hb, hok, hset, hm1, hcpu⟩ := h.exists_failed hl hscope hq
  have hdone := ht.done hreach (pollLine_flag pos) hl (.inr rfl) hscope hq hb hok hset
  rw [eventOf, hset] at hdone
  have htarget := afterPrim_read_target (p := .iocFlag .m1) (.inr rfl) k t
  exact ⟨_, hdone, by rw [htarget]; exact hm1, by rw [htarget]; exact hcpu⟩

/-! ### Both waits -/

/-- `STEP_WAIT` from line `k` on: the target is caught after `m` reads of the latch, and released and finished after `n` samples;
or it is caught already; or the latch is set with M1 de-asserted. -/
structure StepCompletes (rest : List Slot) (m n : Nat) (cpu : TargetCpu) (s : State) : Prop where
  stepping : Stepping s
  polls : s.polls = 0
  limit : ∀ l ∈ s.cfg.pollLimit, m < l ∧ n < l
  world : (flagLatched s .m1 = false ∧ s.target.ownsBus = true ∧ 0 < n ∧ cpu = fetched s.target.cpu ∧
      ∃ acts, (s.target.m1 = false ∧ acts = [.m1Assert] ∨ acts = [.m1Deassert, .m1Assert]) ∧
        s.env = List.replicate m idleSlot ++ ⟨acts, .ok⟩ :: (List.replicate n idleSlot ++ slotOf .m1Deassert :: rest)) ∨
    (flagLatched s .m1 = true ∧ s.target.m1 = true ∧ m = 0 ∧ 0 < n ∧ cpu = s.target.cpu ∧
      s.env = idleSlot :: (List.replicate n idleSlot ++ slotOf .m1Deassert :: rest)) ∨
    flagLatched s .m1 = true ∧ s.target.m1 = false ∧ m = 0 ∧ n = 0 ∧ cpu = s.target.cpu ∧ IdleFor 2 s

theorem idleFor_cons {rest : List Slot} (henv : s.env = idleSlot :: rest) : IdleFor 1 s := by simp [IdleFor, henv]

/-- What the wait for the latch finds, and what it leaves to the wait for M1. -/
theorem StepCompletes.flag {rest : List Slot} {m n : Nat} {cpu : TargetCpu} (h : StepCompletes rest m n cpu s) :
    ∃ b, FlagCompletes (List.replicate n idleSlot ++ slotOf .m1Deassert :: rest) m b cpu s ∧
      ∀ t, t.env = s.env.drop (m + 1) →
        b = true ∧ 0 < n ∧ t.env = List.replicate n idleSlot ++ slotOf .m1Deassert :: rest ∨
          b = false ∧ n = 0 ∧ IdleFor 1 t := by
  have hlimit : ∀ l ∈ s.cfg.pollLimit, m < l := fun l hl => (h.limit l hl).1
  rcases h.world with ⟨hclear, hbus, hn, hcpu, acts, hacts, henv⟩ | ⟨hset, hm1, rfl, hn, hcpu, henv⟩ |
    ⟨hset, hm1, rfl, rfl, hcpu, hidle⟩
  · exact ⟨true, ⟨h.stepping, h.polls, hlimit, .inl ⟨hclear, hbus, rfl, hcpu, acts, hacts, henv⟩⟩,
      fun t ht => .inl ⟨rfl, hn, by rw [ht, henv]; simp [List.drop_append]⟩⟩
  · exact ⟨true, ⟨h.stepping, h.polls, hlimit, .inr ⟨hset, rfl, hm1.symm, hcpu, idleFor_cons henv⟩⟩,
      fun t ht => .inl ⟨rfl, hn, by rw [ht, henv]; rfl⟩⟩
  · exact ⟨false, ⟨h.stepping, h.polls, hlimit, .inr ⟨hset, rfl, hm1.symm, hcpu, hidle.mono (by omega)⟩⟩,
      fun t ht => .inr ⟨rfl, rfl, hidle.drop (n := 1) ht⟩⟩

/-- BOTH WAITS END (R145). -/
theorem StepCompletes.exists_done {rest : List Slot} {m n : Nat} {cpu : TargetCpu} {pos pos' : Pos}
    (h : StepCompletes rest m n cpu s) (hflag : prog[k]? = some ⟨pos, .pollFlag, none⟩)
    (hlevel : prog[k + 1]? = some ⟨pos', .poll .m1 false .levelWait none, none⟩)
    (hscope : scopeHandler i = none ∨ s.cancel = false) (hq : s.seq = .running i k) :
    ∃ t, WaitDone prog i (k + 2) (m + 1 + (n + 1))
        (List.replicate m (.flag .m1 false) ++ [.flag .m1 true] ++ levelEvents n) s t ∧
      t.target.m1 = false ∧ t.target.cpu = cpu ∧ t.ioc.flag = 0x00#8 := by
  obtain ⟨b, hwait, hleft⟩ := h.flag
  obtain ⟨u, hu, hm1, hcpu⟩ := hwait.exists_done hflag hscope hq
  have hcompletes : M1Completes rest n u := by
    refine ⟨h.stepping.waited hu.waited, hu.polls, fun l hl => ?_, ?_⟩
    · rw [hu.waited.records.flags.1] at hl
      exact (h.limit l hl).2
    · rcases hleft u hu.env with ⟨hb, hn, henv⟩ | ⟨hb, hn, hidle⟩
      · exact .inl ⟨hm1.trans hb, fun _ => hn, henv⟩
      · exact .inr ⟨hm1.trans hb, hn, hidle⟩
  obtain ⟨t, ht, hm1', hcpu', hflag'⟩ :=
    hcompletes.exists_done hlevel (hscope.imp_right fun hc => hu.waited.cancel.trans hc) hu.seq
  exact ⟨t, hu.trans ht, hm1', hcpu'.trans hcpu, hflag'⟩

end

end

/-! ### `M1_RELEASE_WAIT` and `STEP_WAIT` -/

theorem Waited.storesKept {evs : List Event} {s t : State} (h : Waited evs s t) :
    StoresKept s t ∧ t.target.ownsBus = s.target.ownsBus := by
  refine ⟨⟨?_, ?_, ?_⟩, ?_⟩ <;> rw [h.target]

/-- An operation whose lines are the waits alone runs to its end. -/
theorem exec_of_waitDone {i : Instr} {j n : Nat} {evs : List Event} {s t : State} (hwf : i.WellFormed)
    (hidle : s.seq = .idle) (hallowed : allowed s i = true) (h : WaitDone (programOf s.cfg i) i j n evs (beginOp i s) t)
    (hlast : (programOf s.cfg i)[j]? = none) (hn : n ≤ (programOf s.cfg i).length + s.env.length) :
    exec i s = .next (opReturn t) :=
  exec_of_reaches hwf hidle hallowed (h.reaches.trans (.ended h.seq (tick_end h.seq hlast) rfl)) (by omega) rfl

/-- Settles O35: the wait's samples, the last of which reads M1 de-asserted. -/
theorem m1ReleaseWaitCompletes : Obligations.M1ReleaseWaitCompletes := by
  intro s n rest hgood hidle harm _ hlimit hworld
  have hstepping : Stepping (beginOp .m1ReleaseWait s) := (hgood.stepping hidle harm).congr rfl rfl rfl rfl rfl
  have hcompletes : M1Completes rest n (beginOp .m1ReleaseWait s) := by
    refine ⟨hstepping, rfl, hlimit, hworld.imp ?_ ?_⟩
    · rintro ⟨hm1, hpos, henv⟩
      exact ⟨hm1, fun hset => hpos (by rw [halted, harm]; exact hset), henv⟩
    · rintro ⟨hm1, hn, hquiet⟩
      exact ⟨hm1, hn, Quiet.idleFor (s := beginOp .m1ReleaseWait s) hquiet 1⟩
  obtain ⟨t, ht, hm1, hcpu, hflag⟩ := hcompletes.exists_done (prog := programOf s.cfg .m1ReleaseWait)
    (i := .m1ReleaseWait) (k := 0) rfl (.inl rfl) rfl
  have hfuel : n + 1 ≤ (programOf s.cfg .m1ReleaseWait).length + s.env.length := by
    show n + 1 ≤ 1 + s.env.length
    rcases hworld with ⟨_, _, henv⟩ | ⟨_, rfl, _⟩
    · simp [henv]
      omega
    · omega
  have hexec := exec_of_waitDone (i := .m1ReleaseWait) trivial hidle ((isArmed_iff s).mpr harm) ht rfl hfuel
  have hwaited := ht.waited
  obtain ⟨hstores, hbus⟩ := hwaited.storesKept
  exact ⟨_, hexec, ⟨rfl, hwaited.records.raised, rfl⟩, hwaited.records.flags, hwaited.records.result, hwaited.dir,
    hwaited.out, hwaited.setup, hflag, hstores, hm1, hbus, hcpu, hwaited.trace⟩

/-- Settles O36: the wait for the latch and then the wait for M1. -/
theorem stepWaitCompletes : Obligations.StepWaitCompletes := by
  intro s m n acts rest cpu hgood hidle harm _ hlimit hworld
  have hstepping : Stepping (beginOp .stepWait s) := (hgood.stepping hidle harm).congr rfl rfl rfl rfl rfl
  have hcompletes : StepCompletes rest m n cpu (beginOp .stepWait s) := by
    refine ⟨hstepping, rfl, hlimit, ?_⟩
    rcases hworld with ⟨hclear, hbus, hn, hcpu, hacts, henv⟩ | hcaught | ⟨hset, hm1, hm, hn, hcpu, hquiet⟩
    · exact .inl ⟨hclear, hbus, hn, hcpu, acts, hacts, henv⟩
    · exact .inr (.inl hcaught)
    · exact .inr (.inr ⟨hset, hm1, hm, hn, hcpu, Quiet.idleFor (s := beginOp .stepWait s) hquiet 2⟩)
  obtain ⟨t, ht, hm1, hcpu, hflag⟩ := hcompletes.exists_done (prog := programOf s.cfg .stepWait) (i := .stepWait)
    (k := 0) rfl rfl (.inl rfl) rfl
  have hfuel : m + 1 + (n + 1) ≤ (programOf s.cfg .stepWait).length + s.env.length := by
    show m + 1 + (n + 1) ≤ 2 + s.env.length
    rcases hworld with ⟨_, _, _, _, _, henv⟩ | ⟨_, _, rfl, _, _, henv⟩ | ⟨_, _, rfl, rfl, _⟩
    · simp [henv]
      omega
    · simp [henv]
      omega
    · omega
  have hexec := exec_of_waitDone (i := .stepWait) trivial hidle ((isArmed_iff s).mpr harm) ht rfl hfuel
  have hwaited := ht.waited
  obtain ⟨hstores, hbus⟩ := hwaited.storesKept
  refine ⟨_, hexec, ⟨rfl, hwaited.records.raised, rfl⟩, hwaited.records.flags, hwaited.records.result, hwaited.dir,
    hwaited.out, hwaited.setup, hflag, hstores, hm1, hbus, hcpu, ?_⟩
  rw [opReturn_trace, hwaited.trace]
  simp only [beginOp_trace, List.append_assoc]

end Sys2Proof.Machine
end

section
/-! `AUTOSTEP` (R146 to R148): its pacing sleep, and a step of it that a cancellation ends. -/

namespace Sys2Proof.Machine

/-! ### Time -/

/-- Time does not go back (R8). -/
theorem applyAct_now (s : State) (a : EnvAct) : s.now ≤ (applyAct s a).now := by
  cases a with
  | elapse d =>
    simp only [applyAct]
    split
    · next hd => exact le_add_of_nonneg_right (Rat.num_nonneg.mp hd)
    · exact le_rfl
  | memWrite a v =>
    simp only [applyAct]
    split
    · exact (storeByte_board a v s s.draws).kept.now.ge
    · exact le_rfl
  | io x =>
    simp only [applyAct]
    split
    · exact (ioAccess_board x s s.draws).kept.now.ge
    · exact le_rfl
  | bank b =>
    simp only [applyAct]
    split
    · exact (holdWrite_board { s with target := { s.target with bank := b } }).kept.now.ge
    · exact le_rfl
  | grant | resume | m1Assert | m1Deassert | cancel =>
    simp only [applyAct]
    split <;> exact le_rfl
  | int | clk | user => exact le_rfl

theorem applyActs_now (s : State) (l : List EnvAct) : s.now ≤ (applyActs s l).now := by
  induction l generalizing s with
  | nil => exact le_rfl
  | cons a l ih => exact (applyAct_now s a).trans (ih _)

theorem boundary_now (s : State) : s.now ≤ (boundary s).1.now := by
  unfold boundary
  split
  · exact le_rfl
  · exact applyActs_now _ _

/-! ### The pacing sleep -/

theorem paceTime_eq_max (period now t0 : Quantity) : paceTime period now t0 = max 0 (period - (now - t0)) := by
  unfold paceTime
  split
  · next h => exact (max_eq_right h.le).symm
  · next h => exact (max_eq_left (not_lt.mp h)).symm

/-- After the sleep the period has passed since `t0`. -/
theorem le_now_add_paceTime (period now t0 : Quantity) : t0 + period ≤ now + paceTime period now t0 := by
  have h := le_max_right 0 (period - (now - t0))
  rw [← paceTime_eq_max] at h
  linarith

/-- An iteration that has taken no time sleeps the whole period. -/
theorem paceTime_self {period : Quantity} (h : 0 < period) (now : Quantity) : paceTime period now now = period := by
  rw [paceTime_eq_max, sub_self, sub_zero, max_eq_right h.le]

/-- The line of step (c) leads to the loop's first line. -/
theorem autostep_paceLine (c : Params) (r : Quantity) :
    (programOf c (.autostep r))[4]? = some (lnLoop .autostep 2 3 (.pace (stepPeriod r)) 0) := rfl

/-- The state after step (c) that nothing disturbs. -/
def afterPace (d : Quantity) (s : State) : State :=
  jumpTo 0 (emit (.sleep d false) { (boundary (boundary s).1).1 with now := (boundary (boundary s).1).1.now + d })

theorem Unhindered.tick_pace {c : Params} {s : State} {r : Quantity} {n : Nat} (h : Unhindered (n + 2) s)
    (hq : s.seq = .running (.autostep r) 4) : tick (programOf c (.autostep r)) s =
      afterPace (paceTime (stepPeriod r) (Machine.boundary s).1.now (Machine.boundary s).1.t0) s := by
  rw [tick_line hq (autostep_paceLine c r)]
  exact sleepFor_ok (d := fun t => paceTime (stepPeriod r) t.now t.t0) h.untaken h.notKilled h.boundary.untaken
    h.boundary.notKilled

/-- Settles O40: the sleep's time and the time that passes inside it both count. -/
theorem autostepPacing : Obligations.AutostepPacing := by
  rintro s t r hq hsound hcancel hr hacts rfl
  have hfree : Unhindered 2 s := ⟨hcancel, hsound, fun l hl => hacts l (List.mem_of_mem_take hl)⟩
  have hb := boundary_kept s
  have hb' := boundary_kept (boundary s).1
  rw [hfree.tick_pace (n := 0) hq, hb.t0]
  refine ⟨jumpTo_running (hb'.seq.trans (hb.seq.trans hq)) 0, ?_, hb'.t0.trans hb.t0, ?_⟩
  · exact (le_now_add_paceTime (stepPeriod r) (boundary s).1.now s.t0).trans
      (add_le_add_left (boundary_now (boundary s).1) _)
  · rw [← stepPeriod, ← paceTime_eq_max]
    show (boundary (boundary s).1).1.trace ++ _ = _
    rw [hb'.trace, hb.trace]

/-! ### A step that a cancellation ends -/

/-- The state after step (c) cut short by a cancellation (R192). -/
def afterCut (d : Quantity) (s : State) : State := takeCancel (emit (.sleep d true) (boundary (boundary s).1).1)

section
variable {s u : State} {r : Quantity}

theorem inHandler_autostep {k : Nat} (hq : s.seq = .running (.autostep r) k) : inHandler s = decide (5 ≤ k) := by
  unfold inHandler
  rw [hq]
  rfl

theorem takeCancel_autostep_seq {k : Nat} (hq : s.seq = .running (.autostep r) k) :
    (takeCancel s).seq = .running (.autostep r) 5 := by
  simp [takeCancel, hq, scopeHandler]

theorem afterCut_kept (d : Quantity) (s : State) : RecordsStand s (afterCut d s) ∧ StepFrame s (afterCut d s) ∧
    (afterCut d s).trace = s.trace ++ [.sleep d true] ∧ (afterCut d s).env = s.env.drop 2 := by
  have hk := (boundary_kept s).trans (boundary_kept (boundary s).1)
  have hrecords : RecordsStand s (afterCut d s) := hk.records.trans ⟨⟨rfl, rfl, rfl, rfl, rfl, rfl, rfl, rfl, rfl⟩, rfl, rfl⟩
  refine ⟨hrecords, hrecords.stepFrame hk.dir hk.out, ?_, ?_⟩
  · exact congrArg (· ++ [Event.sleep d true]) hk.trace
  · show (boundary (boundary s).1).1.env = _
    rw [boundary_env, boundary_env, ← List.drop_one, ← List.drop_one, List.drop_drop]

/-- The cancellation is raised inside the sleep, and the handler is next. -/
theorem reaches_afterCut {c : Params} {rest : List Slot} (hq : s.seq = .running (.autostep r) 4)
    (henv : s.env = idleSlot :: slotOf .cancel :: rest) (hcancel : s.cancel = false) :
    Reaches (programOf c (.autostep r)) 1 s (afterCut (paceTime (stepPeriod r) s.now s.t0) s) ∧
      (afterCut (paceTime (stepPeriod r) s.now s.t0) s).seq = .running (.autostep r) 5 := by
  have hboundary := boundary_idle henv
  have hidle := IdleFor.waited (n := 0) (idleFor_cons henv)
  have hqb : (boundary s).1.seq = .running (.autostep r) 4 := (boundary_kept s).seq.trans hq
  have hqc := (boundary_kept (boundary s).1).seq.trans hqb
  have hraised : (boundary (boundary s).1).1.cancel = true :=
    boundary_raises (r := rest) (by rw [hboundary]; rfl) (inHandler_autostep hqb)
  have htaken : CancelTaken (boundary s).1 := by
    rw [CancelTaken, hqc, hraised]
    rfl
  have htick : tick (programOf c (.autostep r)) s = afterCut (paceTime (stepPeriod r) s.now s.t0) s := by
    rw [tick_line hq (autostep_paceLine c r)]
    refine (sleepFor_cut (d := fun t => paceTime (stepPeriod r) t.now t.t0) (untaken_of_waited (.inr hcancel) hq hidle)
      (by rw [hboundary]; exact nofun) htaken).trans ?_
    rw [hidle.now, (boundary_kept s).t0]
    rfl
  have hseq := takeCancel_autostep_seq (s := emit (.sleep (paceTime (stepPeriod r) s.now s.t0) true) _) hqc
  exact ⟨.next hq htick hseq (by decide), hseq⟩

/-- A cancellation raised while the handler runs is ignored (R193). -/
theorem afterDisarm_cancel (hq : s.seq = .running (.autostep r) 5) : (afterDisarm 5 s).cancel = s.cancel :=
  (afterPrim_cancel 5 (.iocConfig .m1 .en false) s).trans (boundary_cancel (.inr (inHandler_autostep hq)))

/-- The first iteration up to its pacing sleep: the target is caught, or is caught already, and its fetch completes. -/
theorem exists_stepped {first : Slot} {rest : List Slot} (hgood : Good s) (hidle : s.seq = .idle) (harm : s.arm = .armed)
    (hcancel : s.cancel = false)
    (hworld : s.target.ownsBus = true ∧ s.target.m1 = false ∧ flagLatched s .m1 = false ∧ first = slotOf .m1Assert ∨
      s.target.m1 = true ∧ flagLatched s .m1 = true ∧ first = idleSlot)
    (henv : s.env = first :: idleSlot :: slotOf .m1Deassert :: rest) (hlimit : ∀ l ∈ s.cfg.pollLimit, 1 < l) :
    ∃ t, WaitDone (programOf s.cfg (.autostep r)) (.autostep r) 4 3
      [.flag .m1 true, .sampleSig .m1 true, .sampleSig .m1 false] (atFlagPoll r s) t := by
  obtain ⟨cpu, hcompletes⟩ : ∃ cpu, StepCompletes rest 0 1 cpu (atFlagPoll r s) := by
    have hstepping : Stepping (atFlagPoll r s) := (hgood.stepping hidle harm).congr rfl rfl rfl rfl rfl
    have hlimits : ∀ l ∈ s.cfg.pollLimit, 0 < l ∧ 1 < l := fun l hl => ⟨by have := hlimit l hl; omega, hlimit l hl⟩
    rcases hworld with ⟨hbus, hm1, hclear, rfl⟩ | ⟨hm1, hset, rfl⟩
    · exact ⟨_, hstepping, rfl, hlimits, .inl ⟨hclear, hbus, Nat.one_pos, rfl, _, .inl ⟨hm1, rfl⟩, henv⟩⟩
    · exact ⟨_, hstepping, rfl, hlimits, .inr (.inl ⟨hset, hm1, rfl, Nat.one_pos, rfl, henv⟩)⟩
  obtain ⟨t, ht, _⟩ := hcompletes.exists_done (prog := programOf s.cfg (.autostep r)) (i := .autostep r) (k := 2) rfl rfl
    (.inr hcancel) rfl
  exact ⟨t, ht⟩

end

/-- Settles O38: one iteration, the cancellation in its sleep, and the handler. -/
theorem autostepStepsThenCancelled : Obligations.AutostepStepsThenCancelled := by
  intro s r first rest hgood hidle harm hsound hcancel hr hworld henv hlimit
  obtain ⟨u, hu⟩ := exists_stepped (r := r) hgood hidle harm hcancel hworld henv hlimit
  obtain ⟨v, hv⟩ : ∃ v, v = afterCut (1 / r) u := ⟨_, rfl⟩
  have hwaited := hu.waited
  obtain ⟨hcfg, hown, hmode, _, hfault, _, ht0, _⟩ := hwaited.records.flags
  have henvu : u.env = idleSlot :: slotOf .cancel :: rest := by
    rw [hu.env, show (atFlagPoll r s).env = s.env from rfl, henv]
    rfl
  have hpace : paceTime (stepPeriod r) u.now u.t0 = 1 / r := by
    have hnow : u.now = s.now := hwaited.now
    have hstart : u.t0 = s.now := ht0
    rw [hnow, hstart]
    exact paceTime_self (one_div_pos.mpr hr) _
  obtain ⟨hcut, hq⟩ := reaches_afterCut (c := s.cfg) hu.seq henvu (hwaited.cancel.trans hcancel)
  rw [hpace, ← hv] at hcut hq
  obtain ⟨⟨⟨hcfg', hown', hmode', _, hfault', _, ht0', _⟩, _⟩, hframe, htrace, henvv⟩ := afterCut_kept (1 / r) u
  rw [← hv] at hcfg' hown' hmode' hfault' ht0' hframe htrace henvv
  have hsoundv : Sound v := sound_of_drop hsound (n := 5) (hcfg'.trans hcfg) (by
    rw [henvv, henvu, henv]
    rfl)
  have hhandler := (disarmsAt_autostep s.cfg r).reaches hq (boundary_sound hsoundv).1
  have hexec : exec (.autostep r) s = .next (afterDisarm 5 v) := by
    refine exec_of_reaches (Rat.num_pos.mpr hr) hidle rfl
      ((((reaches_flagPoll harm).trans hu.reaches).trans hcut).trans hhandler) ?_ rfl
    show 2 + 3 + 1 + 3 ≤ 7 + 1 + s.env.length
    simp [henv]
    omega
  obtain ⟨hrecords, hraised, hresult, hdir, hout⟩ := hframe.trans (afterDisarm_frame 5 v)
  obtain ⟨_, hownt, hfaultt, _, ht0t, _⟩ := hrecords
  have hsingle : v.clockMode = .singleStep := (hmode'.trans hmode).trans (hgood.arming.1.mp harm)
  have hen : m1Bit (afterDisarm 5 v) (afterDisarm 5 v).ioc.en = false := by
    have hreg : (afterDisarm 5 v).ioc.en = setBit v.ioc.en v.cfg.pins.m1.bit false := afterDisarm_reg 5 v .en
    rw [m1Bit, (afterDisarm_frame 5 v).cfg, hreg]
    exact bitAt_setBit_same _ _ _
  refine ⟨_, hexec, ⟨rfl, hraised.trans hwaited.records.raised, rfl⟩, rfl, ?_, ?_, hfaultt.trans hfault,
    hownt.trans hown, hdir.trans hwaited.dir, hout.trans hwaited.out, halted_of_disarmed rfl, hen, ht0t.trans ht0,
    hresult.trans hwaited.records.result, ?_⟩
  · rw [afterDisarm_clockMode, if_pos hsingle]
  · rw [afterDisarm_cancel hq, hv]
    rfl
  · rw [afterDisarm_trace, htrace, hwaited.trace]
    simp [atFlagPoll]

end Sys2Proof.Machine
end

section
/-! However `AUTOSTEP` ends it has disarmed (R147): every way out of its loop leads to the handler, and its handler is one
register write and an assignment. -/

namespace Sys2Proof.Machine

/-! ### Kills and the script -/

/-- Between `s` and `t` some slots of the script were used. -/
def Spends (s t : State) : Prop := ∃ used, s.env = used ++ t.env

/-- The last slot used between `s` and `t` was a kill. -/
def Struck (s t : State) : Prop := t.killed = true ∧ ∃ used l, s.env = used ++ l :: t.env ∧ l.fate = .kill

section
variable {s t u : State}

theorem Spends.of_env (h : t.env = s.env) : Spends s t := ⟨[], h.symm⟩

theorem Spends.trans (h : Spends s t) (k : Spends t u) : Spends s u := by
  obtain ⟨used, h⟩ := h
  obtain ⟨used', k⟩ := k
  exact ⟨used ++ used', by rw [h, k, List.append_assoc]⟩

theorem boundary_spends (s : State) : Spends s (boundary s).1 := by
  rw [Spends, boundary_env]
  exact ⟨s.env.take 1, by rw [← List.drop_one, List.take_append_drop]⟩

theorem Struck.before (h : Spends s t) (k : Struck t u) : Struck s u := by
  obtain ⟨used, h⟩ := h
  obtain ⟨hkilled, used', l, k, hl⟩ := k
  exact ⟨hkilled, used ++ used', l, by rw [h, k, List.append_assoc], hl⟩

theorem Struck.spends (h : Struck s t) : Spends s t := by
  obtain ⟨_, used, l, h, _⟩ := h
  exact ⟨used ++ [l], by rw [h, List.append_assoc]; rfl⟩

theorem struck_takeKill (h : (boundary s).2 = .kill) : Struck s (takeKill (boundary s).1) := by
  obtain ⟨l, henv, hfate⟩ := fate_of_boundary (s := s) (by simp [h])
  exact ⟨rfl, [], l, henv, fateOf_eq_kill.mp (hfate.symm.trans h)⟩

/-- A kill of the operation is what `NotKilled` excludes (assumption 14). -/
theorem Struck.not_notKilled (h : Struck s t) : ¬ NotKilled s t :=
  Disturbed.not_returned (t := { t with seq := .idle, raised := none, polls := 0 }) (.inr h) ⟨rfl, rfl, rfl⟩

end

/-! ### The loop -/

/-- What a line of the loop comes to: a line of the loop again or the handler's first, or a kill. -/
structure InLoop (r : Quantity) (s t : State) : Prop where
  spends : Spends s t
  place : (∃ j, t.seq = .running (.autostep r) j ∧ j ≤ 5) ∨ t.seq = .idle ∧ Struck s t

section
variable {r : Quantity} {k : Nat} {s t u : State}

theorem InLoop.at {j : Nat} (henv : Spends s t) (hq : t.seq = .running (.autostep r) j) (hj : j ≤ 5) : InLoop r s t :=
  ⟨henv, .inl ⟨j, hq, hj⟩⟩

theorem InLoop.struck (hq : t.seq = .idle) (h : Struck s t) : InLoop r s t := ⟨h.spends, .inr ⟨hq, h⟩⟩

theorem InLoop.before (h : Spends s t) (k : InLoop r t u) : InLoop r s u :=
  ⟨h.trans k.spends, k.place.imp_right fun ⟨hq, hstruck⟩ => ⟨hq, hstruck.before h⟩⟩

theorem inLoop_takeCancel (hq : s.seq = .running (.autostep r) k) : InLoop r s (takeCancel s) :=
  .at (.of_env rfl) (takeCancel_autostep_seq hq) le_rfl

theorem inLoop_raiseFault (hq : s.seq = .running (.autostep r) k) (hk : k < 5) (f : Fault) :
    InLoop r s (raiseFault f s) :=
  .at (j := 5) (.of_env rfl) (by simp [raiseFault, hq, scopeHandler, hk]) le_rfl

theorem inLoop_jumpTo (hq : s.seq = .running (.autostep r) k) {j : Nat} (hj : j ≤ 5) : InLoop r s (jumpTo j s) :=
  .at (.of_env rfl) (jumpTo_running hq j) hj

theorem inLoop_pollFailed (hq : s.seq = .running (.autostep r) k) (hk : k < 5) (w : Wait) :
    InLoop r s (pollFailed w none s) := by
  have hcount : InLoop r s { s with polls := s.polls + 1 } := .at (.of_env rfl) hq hk.le
  unfold pollFailed
  split
  · exact hcount
  · split
    · exact inLoop_raiseFault hq hk _
    · exact hcount

/-- What follows a read of a poll in the loop. -/
theorem inLoop_polled (hq : s.seq = .running (.autostep r) k) (hk : k < 5) (p : Prim) (ready : Prop) [Decidable ready]
    (w : Wait) (pos : Pos) (m : Micro) :
    InLoop r s (if ready then advance k ⟨pos, m, none⟩ (perform p s) else pollFailed w none (perform p s)) := by
  have hp := perform_kept p s
  refine .before (.of_env hp.env) ?_
  split
  · exact inLoop_jumpTo (hp.seq.trans hq) hk
  · exact inLoop_pollFailed (hp.seq.trans hq) hk w

theorem inLoop_access (hq : s.seq = .running (.autostep r) k) (hk : k < 5) {p : Prim} {pos : Pos} {f : State → State}
    (hf : ∀ b, b.seq = .running (.autostep r) k → InLoop r b (f b)) : InLoop r s (access p pos f s) := by
  have hqb := (boundary_kept s).seq.trans hq
  rcases access_cases p pos f s with ⟨_, e⟩ | ⟨_, ⟨_, e⟩ | ⟨n, _, e⟩ | ⟨hkill, e⟩⟩ <;> rw [e]
  · exact .before (boundary_spends s) (inLoop_takeCancel hqb)
  · exact .before (boundary_spends s) (hf _ hqb)
  · have habort := abortEffect_kept p n (boundary s).1
    exact .before ((boundary_spends s).trans (.of_env habort.env)) (inLoop_raiseFault (habort.seq.trans hqb) hk _)
  · exact .struck rfl (struck_takeKill hkill)

theorem inLoop_sleepFor (hq : s.seq = .running (.autostep r) k) (d : State → Quantity) {f : State → State}
    (hf : ∀ b, b.seq = .running (.autostep r) k → InLoop r b (f b)) : InLoop r s (sleepFor d f s) := by
  have hb := boundary_spends s
  have hqb := (boundary_kept s).seq.trans hq
  have hqc := (boundary_kept (boundary s).1).seq.trans hqb
  have hc : Spends s (boundary (boundary s).1).1 := hb.trans (boundary_spends _)
  unfold sleepFor
  dsimp only
  split
  · exact .before hb (inLoop_takeCancel hqb)
  · split
    · next hkill => exact .struck rfl (struck_takeKill hkill)
    · split
      · exact InLoop.before (t := emit (.sleep (d (boundary s).1) true) (boundary (boundary s).1).1) hc
          (inLoop_takeCancel hqc)
      · split
        · next hkill => exact .struck rfl ((struck_takeKill hkill).before hb)
        · exact InLoop.before (t := emit (.sleep (d (boundary s).1) false)
            { (boundary (boundary s).1).1 with now := (boundary (boundary s).1).1.now + d (boundary s).1 }) hc (hf _ hqc)

/-- A LINE OF THE LOOP leads to the loop or to the handler, or a kill ends it. -/
theorem inLoop_tick (c : Params) (hq : s.seq = .running (.autostep r) k) (hk : k < 5) :
    InLoop r s (tick (programOf c (.autostep r)) s) := by
  match k with
  | 0 =>
    rw [tick_line hq rfl]
    show InLoop r s (if isArmed s then jumpTo 1 s else jumpTo 5 s)
    split
    · exact inLoop_jumpTo hq (by decide)
    · exact inLoop_jumpTo hq le_rfl
  | 1 =>
    rw [tick_line hq rfl]
    exact .at (.of_env rfl) (jumpTo_running (s := { s with t0 := s.now }) hq 2) (by decide)
  | 2 =>
    rw [tick_line hq rfl]
    exact inLoop_access hq hk fun b hb => inLoop_polled hb hk _ _ _ _ _
  | 3 =>
    rw [tick_line hq rfl]
    exact inLoop_access hq hk fun b hb => inLoop_polled hb hk _ _ _ _ _
  | 4 =>
    rw [tick_line hq (autostep_paceLine c r)]
    exact inLoop_sleepFor hq (fun t => paceTime (stepPeriod r) t.now t.t0)
      (f := advance 4 (lnLoop .autostep 2 3 (.pace (stepPeriod r)) 0)) fun b hb => inLoop_jumpTo hb (Nat.zero_le 5)

end

/-! ### The handler -/

/-- The handler's write has been made, and it is the last event since `s` (R147). -/
structure Cleared (s u : State) : Prop where
  trace : ∃ evs, u.trace = s.trace ++ evs ++ [.ioc .m1 .en false]
  en : m1Bit u u.ioc.en = false

/-- The fault of the handler's write (R184). -/
def handlerAbort : Fault := .transportAbort (.iocConfig .m1 .en false) ⟨.singlestepOff, 1, 0⟩

/-- Where an `AUTOSTEP` that began in `s` can stand or have ended. -/
inductive AutostepAt (r : Quantity) (s u : State) : Prop where
  | loop {k : Nat} (hq : u.seq = .running (.autostep r) k) (hk : k ≤ 5)
  | cleared (hq : u.seq = .running (.autostep r) 6) (h : Cleared s u)
  | disarmed (hq : u.seq = .running (.autostep r) 7 ∨ u.seq = .idle) (h : Cleared s u) (harm : u.arm = .disarmed)
      (hmode : u.clockMode ≠ .singleStep)
  | aborted (hq : u.seq = .idle) (h : u.raised = some handlerAbort)
  | killed (hq : u.seq = .idle) (h : Struck s u)

section
variable {r : Quantity} {s u : State}

theorem InLoop.autostepAt {t : State} (h : InLoop r u t) (hspends : Spends s u) : AutostepAt r s t := by
  rcases h.place with ⟨j, hq, hj⟩ | ⟨hq, hstruck⟩
  · exact .loop hq hj
  · exact .killed hq (hstruck.before hspends)

/-- The write clears the bit and is recorded last. -/
theorem cleared_afterPrim (hext : Extends s u) (k : Nat) : Cleared s (afterPrim k (.iocConfig .m1 .en false) u) := by
  obtain ⟨evs, hevs⟩ := hext.trace
  refine ⟨⟨evs, by rw [afterPrim_iocConfig_trace, ← hevs]⟩, ?_⟩
  have hreg : (afterPrim k (.iocConfig .m1 .en false) u).ioc.en = setBit u.ioc.en u.cfg.pins.m1.bit false :=
    afterPrim_iocConfig_reg k .en .en false u
  rw [m1Bit, afterPrim_cfg, hreg]
  exact bitAt_setBit_same _ _ _

/-- The handler's write is made, or aborts, or a kill ends it. -/
theorem autostepAt_write (c : Params) (hext : Extends s u) (hspends : Spends s u)
    (hq : u.seq = .running (.autostep r) 5) :
    Spends s (tick (programOf c (.autostep r)) u) ∧ AutostepAt r s (tick (programOf c (.autostep r)) u) := by
  have hline := (disarmsAt_autostep c r).write
  have hqb := (boundary_kept u).seq.trans hq
  have hb := hspends.trans (boundary_spends u)
  rw [tick_line hq hline]
  rcases access_cases (.iocConfig .m1 .en false) ⟨.singlestepOff, 1, 0⟩
      (fun t => advance 5 (ln .singlestepOff 1 0 (.prim (.iocConfig .m1 .en false))) (perform (.iocConfig .m1 .en false) t)) u
    with ⟨htaken, _⟩ | ⟨_, ⟨_, e⟩ | ⟨n, _, e⟩ | ⟨hkill, e⟩⟩
  · rw [hqb] at htaken
    cases htaken
  · have hdone : doLine 5 (ln .singlestepOff 1 0 (.prim (.iocConfig .m1 .en false))) u =
        afterPrim 5 (.iocConfig .m1 .en false) u := e
    rw [hdone]
    exact ⟨hb.trans (.of_env (perform_kept _ _).env), .cleared (afterPrim_seq hq _) (cleared_afterPrim hext 5)⟩
  · have hseq : (raiseFault handlerAbort (abortEffect (.iocConfig .m1 .en false) n (boundary u).1)).seq = .idle := by
      simp [raiseFault, (abortEffect_kept _ n _).seq, hqb, scopeHandler]
    have hdone : doLine 5 (ln .singlestepOff 1 0 (.prim (.iocConfig .m1 .en false))) u = raiseFault handlerAbort _ := e
    rw [hdone]
    exact ⟨hb.trans (.of_env (abortEffect_kept _ n _).env), .aborted hseq rfl⟩
  · have hdone : doLine 5 (ln .singlestepOff 1 0 (.prim (.iocConfig .m1 .en false))) u = takeKill (boundary u).1 := e
    have hstruck := (struck_takeKill hkill).before hspends
    rw [hdone]
    exact ⟨hstruck.spends, .killed rfl hstruck⟩

/-- The handler's assignment. -/
theorem autostepAt_assign (c : Params) (hq : u.seq = .running (.autostep r) 6) (h : Cleared s u) :
    (tick (programOf c (.autostep r)) u).env = u.env ∧ AutostepAt r s (tick (programOf c (.autostep r)) u) := by
  rw [tick_line hq (disarmsAt_autostep c r).assign]
  refine ⟨rfl, .disarmed (.inl (jumpTo_running (s := setDisarmed u) hq 7)) ⟨h.trace, h.en⟩ rfl ?_⟩
  show (setDisarmed u).clockMode ≠ _
  rw [setDisarmed_clockMode]
  split
  · exact nofun
  · assumption

/-- EVERY TICK of `AUTOSTEP`. -/
theorem autostepAt_tick (c : Params) {i : Instr} {k : Nat} (hq : u.seq = .running i k) (hext : Extends s u)
    (hspends : Spends s u) (h : AutostepAt r s u) :
    Spends s (tick (programOf c (.autostep r)) u) ∧ AutostepAt r s (tick (programOf c (.autostep r)) u) := by
  cases h with
  | @loop j hj hle =>
    rcases Nat.lt_or_eq_of_le hle with hlt | rfl
    · have hloop := inLoop_tick c hj hlt
      exact ⟨hspends.trans hloop.spends, hloop.autostepAt hspends⟩
    · exact autostepAt_write c hext hspends hj
  | cleared hj hcleared =>
    obtain ⟨henv, hat⟩ := autostepAt_assign c hj hcleared
    exact ⟨hspends.trans (.of_env henv), hat⟩
  | disarmed hj hcleared harm hmode =>
    rcases hj with hj | hj
    · rw [tick_end hj (disarmsAt_autostep c r).last]
      exact ⟨hspends.trans (.of_env rfl), .disarmed (.inr rfl) ⟨hcleared.trace, hcleared.en⟩ harm hmode⟩
    · cases hj.symm.trans hq
  | aborted hj | killed hj => cases hj.symm.trans hq

/-- EVERY RUN of `AUTOSTEP`. -/
theorem autostepAt_exec {t : State} (h : exec (.autostep r) s = .next t) : AutostepAt r s t := by
  obtain ⟨_, _, rfl⟩ := exec_next h
  have hrun := runProg_induct (prog := programOf s.cfg (.autostep r))
    (P := fun u => Extends s u ∧ Spends s u ∧ AutostepAt r s u)
    (fun u i k hq ⟨hext, hspends, hat⟩ => ⟨hext.trans (tick_extends _ u), autostepAt_tick s.cfg hq hext hspends hat⟩)
    (runFuel (programOf s.cfg (.autostep r)) (beginOp (.autostep r) s)) (s := beginOp (.autostep r) s)
    ⟨.of_trace_eq rfl rfl, .of_env rfl, .loop (k := 0) rfl (Nat.zero_le 5)⟩
  obtain ⟨_, _, hat⟩ := hrun
  exact hat

end

/-- Settles O39: the run ends after the handler, or in the abort of its write, or in a kill. -/
theorem autostepAlwaysDisarms : Obligations.AutostepAlwaysDisarms := by
  intro s t r _ hexec hidle halive hraised
  cases autostepAt_exec hexec with
  | loop hq | cleared hq => cases hidle.symm.trans hq
  | disarmed _ hcleared harm hmode => exact ⟨hcleared.trace, harm, hcleared.en, halted_of_disarmed harm, hmode⟩
  | aborted _ h => exact absurd h hraised
  | killed _ h => exact absurd halive h.not_notKilled

end Sys2Proof.Machine
end

section
/-! The block commands of the command surface (R162 to R164, R42): what `loadSteps` and `dumpSteps` list, and where. -/

namespace Sys2Proof.Machine

@[simp] theorem loadSteps_length (base : Nat) (bytes : List Byte) : (loadSteps base bytes).length = bytes.length := by
  induction bytes generalizing base with
  | nil => rfl
  | cons b bytes ih => simp [loadSteps, ih]

/-- Byte `k` is written at `base + k` (R164). -/
theorem loadSteps_getElem? {base k : Nat} {b : Byte} {bytes : List Byte} (h : bytes[k]? = some b) :
    (loadSteps base bytes)[k]? = some (.op (.memWrite (base + k) b.toNat)) := by
  induction bytes generalizing base k with
  | nil => cases h
  | cons c bytes ih =>
    cases k with
    | zero =>
      cases h
      rfl
    | succ k =>
      rw [loadSteps, List.getElem?_cons_succ, ih h]
      congr 3
      omega

/-- Reads that print nothing (R163). -/
theorem dumpSteps_silent_succ (base n : Nat) :
    dumpSteps false base (n + 1) = .op (.memRead base) :: dumpSteps false (base + 1) n := rfl

/-- Reads that each print their byte (R162; assumption 40). -/
theorem dumpSteps_printing_succ (base n : Nat) :
    dumpSteps true base (n + 1) = .op (.memRead base) :: .print :: dumpSteps true (base + 1) n := rfl

@[simp] theorem dumpSteps_silent_length (base n : Nat) : (dumpSteps false base n).length = n := by
  induction n generalizing base with
  | zero => rfl
  | succ n ih => rw [dumpSteps_silent_succ, List.length_cons, ih]

@[simp] theorem dumpSteps_printing_length (base n : Nat) : (dumpSteps true base n).length = 2 * n := by
  induction n generalizing base with
  | zero => rfl
  | succ n ih => simp [dumpSteps_printing_succ, ih, Nat.mul_succ]

/-- Read `k` is at `base + k` (R163). -/
theorem dumpSteps_silent_getElem? {base n k : Nat} (h : k < n) :
    (dumpSteps false base n)[k]? = some (.op (.memRead (base + k))) := by
  induction n generalizing base k with
  | zero => exact absurd h (Nat.not_lt_zero k)
  | succ n ih =>
    cases k with
    | zero => rfl
    | succ k =>
      rw [dumpSteps_silent_succ, List.getElem?_cons_succ, ih (Nat.lt_of_succ_lt_succ h)]
      congr 3
      omega

/-- Read `k` is at `base + k`, and its byte is printed right after it (R162; assumption 40). -/
theorem dumpSteps_printing_getElem? {base n k : Nat} (h : k < n) :
    (dumpSteps true base n)[2 * k]? = some (.op (.memRead (base + k))) ∧
      (dumpSteps true base n)[2 * k + 1]? = some .print := by
  induction n generalizing base k with
  | zero => exact absurd h (Nat.not_lt_zero k)
  | succ n ih =>
    cases k with
    | zero => exact ⟨rfl, rfl⟩
    | succ k =>
      obtain ⟨hread, hprint⟩ := ih (base := base + 1) (Nat.lt_of_succ_lt_succ h)
      rw [dumpSteps_printing_succ, Nat.mul_succ]
      refine ⟨?_, hprint⟩
      rw [List.getElem?_cons_succ, List.getElem?_cons_succ, hread]
      congr 3
      omega

/-- Settles O59: the bodies are `loadSteps` and `dumpSteps`, whose elements stand at ascending addresses. -/
theorem blockCommandsAscend : Obligations.BlockCommandsAscend :=
  ⟨fun base bytes _ => ⟨loadSteps base bytes, rfl, loadSteps_length base bytes, fun _ _ => loadSteps_getElem?⟩,
    fun base n _ =>
      ⟨⟨dumpSteps false base n, rfl, dumpSteps_silent_length base n, fun _ => dumpSteps_silent_getElem?⟩,
        dumpSteps true base n, rfl, dumpSteps_printing_length base n, fun _ => dumpSteps_printing_getElem?⟩⟩

end Sys2Proof.Machine
end

section
/-! The turns of the commands of the command surface (R160 to R173, R191): what a step makes of a command that begins
and of one in progress. -/

namespace Sys2Proof.Machine

/-! ### An operation in a command's scope -/

/-- An operation of a scope that is not refused runs there. -/
theorem issueInScope_of_next {i : Instr} {r : CommandRest} {s t : State} (h : exec i (pushRest r s) = .next t) :
    issueInScope i r s = exec i (pushRest r s) := by
  simp only [issueInScope, h]

/-- A refused operation of a scope leaves it through the handler, with the refusal to follow (R191). -/
theorem issueInScope_of_refused {i : Instr} {r : CommandRest} {s : State} {why : Refusal}
    (h : exec i (pushRest r s) = .refused why) : issueInScope i r s = leaveScope (some why) s := by
  simp only [issueInScope, h]

/-- An operation that R72 allows under `p` alone runs in a scope where `p` holds, and is refused there where it does
not. -/
theorem issueInScope_runsInScope {p : Prop} {i : Instr} {s : State} (r : CommandRest) (rest : List Request)
    (hwf : i.WellFormed) (hidle : s.seq = .idle) (hp : allowed (pushRest r { s with requests := rest }) i = true ↔ p) :
    RunsInScope p i r rest s (issueInScope i r { s with requests := rest }) := by
  obtain ⟨hruns, hrefused⟩ := exec_of_idle (s := pushRest r { s with requests := rest }) hwf hidle
  rw [hp] at hruns
  refine ⟨fun hallowed => ?_, fun hnot => ?_⟩
  · obtain ⟨t, ht⟩ := hruns.mpr hallowed
    exact issueInScope_of_next ht
  · exact issueInScope_of_refused (hrefused (mt hruns.mp hnot))

/-- `SINGLESTEP_ON` in a scope (R72). -/
theorem singlestepOn_runsInScope {s : State} (r : CommandRest) (rest : List Request) (hidle : s.seq = .idle) :
    RunsInScope (s.clockMode = .hardwareFree ∨ s.clockMode = .singleStep) .singlestepOn r rest s
      (issueInScope .singlestepOn r { s with requests := rest }) :=
  issueInScope_runsInScope r rest trivial hidle (maySinglestepOn_iff _)

/-- `M1_RELEASE_WAIT` in a scope (R72). -/
theorem m1ReleaseWait_runsInScope {s : State} (r : CommandRest) (rest : List Request) (hidle : s.seq = .idle) :
    RunsInScope (s.arm = .armed) .m1ReleaseWait r rest s (issueInScope .m1ReleaseWait r { s with requests := rest }) :=
  issueInScope_runsInScope r rest trivial hidle (isArmed_iff _)

/-- A rate in its domain: `AUTOSTEP` is defined in every state (R72). -/
theorem issueInScope_autostep {s : State} {r : Quantity} (rest : CommandRest) (hidle : s.seq = .idle) (hr : 0 < r) :
    issueInScope (.autostep r) rest s = exec (.autostep r) (pushRest rest s) :=
  issueInScope_of_next (issue_next (Rat.num_pos.mpr hr) hidle rfl)

/-- `AUTOSTEP` with a rate outside its domain is refused (R61, R70). -/
theorem exec_autostep_badRate {s : State} {r : Quantity} (hr : ¬ 0 < r) :
    exec (.autostep r) s = .refused (.invalidArgument .rate r) := by
  have hbad : badOperand (.autostep r) = some (.rate, r) := if_neg (mt Rat.num_pos.mp hr)
  simp only [exec, execAutostep, issue, hbad]

/-! ### What a step takes up -/

section
variable {s : State} {rest : List Request}

theorem step_command {c : HostCommand} (hidle : s.seq = .idle) (hreq : s.requests = .command c :: rest) :
    step s = startCommand c { s with requests := rest } := by
  simp only [step, hidle, hreq]

theorem step_rest {r : CommandRest} (hidle : s.seq = .idle) (hreq : s.requests = .rest r :: rest) :
    step s = continueCommand r { s with requests := rest } := by
  simp only [step, hidle, hreq]

/-- A state is itself with its own requests put back. -/
theorem pushRest_requests_eq {r : CommandRest} (hreq : s.requests = .rest r :: rest) :
    pushRest r { s with requests := rest } = s := by
  rw [pushRest, ← hreq]

/-- The script and the parameters alone decide the fate of the next access (R184). -/
theorem boundary_fate_congr (s t : State) (henv : t.env = s.env) (hcfg : t.cfg = s.cfg) :
    (boundary t).2 = (boundary s).2 := by
  cases hscript : s.env with
  | nil => rw [boundary_nil hscript, boundary_nil (henv.trans hscript)]
  | cons l r => rw [boundary_cons hscript, boundary_cons (henv.trans hscript), hcfg]

/-! ### Straight lines (R160, R184) -/

/-- A command with no operation of its own before its expansion becomes its expansion (R160). -/
theorem startCommand_expands {c : HostCommand} (hc : preamble c = none) :
    startCommand c s = .next (pushRest (expand c) { s with raised := none }) := by
  simp only [startCommand, hc]

theorem continueCommand_print {l : List CommandStep} {v : Byte} (hraised : s.raised = none) (hv : s.result = some v) :
    continueCommand (.steps (.print :: l)) s =
      .next (pushRest (.steps l) { s with console := s.console ++ [.byte v] }) := by
  simp [continueCommand, printResult, hraised, hv]

theorem continueCommand_op {i : Instr} {l : List CommandStep} (hraised : s.raised = none) :
    continueCommand (.steps (.op i :: l)) s = exec i (pushRest (.steps l) s) := by
  simp [continueCommand, hraised]

/-- After a fault the rest of a straight line is abandoned (R184). -/
theorem continueCommand_steps_raised (l : List CommandStep) (hraised : s.raised ≠ none) :
    continueCommand (.steps l) s = .next s := by
  have hsome : s.raised.isSome = true := Option.isSome_iff_ne_none.mpr hraised
  match l with
  | [] => rfl
  | .op _ :: _ | .print :: _ => simp only [continueCommand, hsome, if_true]

/-! ### `iowatch` (R169) -/

theorem continueCommand_watch {a : Nat} {last : Option Byte} (hraised : s.raised = none) (hcancel : s.cancel = false) :
    continueCommand (.watch a last) s = exec (.ioRead a) (pushRest (.watched a last) s) := by
  simp [continueCommand, hraised, hcancel]

/-- A cancellation ends the watch, and whether it releases the bus is free (assumption 4). -/
theorem continueCommand_watch_cancelled {a : Nat} {last : Option Byte} (hraised : s.raised = none)
    (hcancel : s.cancel = true) :
    continueCommand (.watch a last) s = exec (.releaseBus false) { s with cancel := false, draws := s.draws + 1 } ∨
      continueCommand (.watch a last) s = .next { s with cancel := false, draws := s.draws + 1 } := by
  simp only [continueCommand, hraised, hcancel, Option.isSome_none, Bool.false_eq_true, if_false, if_true]
  split
  · exact .inl rfl
  · exact .inr rfl

theorem continueCommand_watched {a : Nat} {last : Option Byte} {v : Byte} (hraised : s.raised = none)
    (hv : s.result = some v) :
    continueCommand (.watched a last) s =
      .next (pushRest (.watch a (some v))
        { s with console := s.console ++ (if last = some v then [] else [.byte v]) }) := by
  by_cases hsame : last = some v
  · simp [continueCommand, hraised, hv, hsame, pushRest]
  · simp [continueCommand, printResult, hraised, hv, hsame, Ne.symm hsame, pushRest]

/-! ### `autostep` (R170, R191) -/

theorem continueCommand_autostepArmed {r : Quantity} (hidle : s.seq = .idle) (hraised : s.raised = none) (hr : 0 < r) :
    continueCommand (.autostepArmed r) s = exec (.autostep r) (pushRest .autostepEnd s) := by
  simp [continueCommand, hraised, issueInScope_autostep .autostepEnd hidle hr]

theorem continueCommand_autostepArmed_badRate {r : Quantity} (hraised : s.raised = none) (hr : ¬ 0 < r) :
    continueCommand (.autostepArmed r) s = leaveScope (some (.invalidArgument .rate r)) s := by
  simp [continueCommand, hraised, issueInScope_of_refused (exec_autostep_badRate hr)]

theorem continueCommand_autostepArmed_raised {r : Quantity} (hraised : s.raised ≠ none) :
    continueCommand (.autostepArmed r) s = leaveScope none s := by
  simp [continueCommand, Option.isSome_iff_ne_none.mpr hraised]

/-! ### `singlestep` (R171, R191) -/

/-- A fault or a cancellation ends the dialogue with the user. -/
theorem continueCommand_interactive_ends (h : s.raised ≠ none ∨ s.cancel = true) :
    continueCommand .interactive s = leaveScope none { s with cancel := false } := by
  have hends : (s.raised.isSome || s.cancel) = true := by
    rwa [Bool.or_eq_true, Option.isSome_iff_ne_none]
  simp only [continueCommand, hends, if_true]

/-- The user asks for one more step. -/
theorem continueCommand_interactive_advance {u : List UserEvent} (hraised : s.raised = none)
    (hcancel : s.cancel = false) (hu : s.users = .advance :: u) :
    continueCommand .interactive s = issueInScope .m1ReleaseWait .interactive { s with users := u } := by
  simp [continueCommand, hraised, hcancel, hu]

/-- The user ends the dialogue. -/
theorem continueCommand_interactive_quit {u : List UserEvent} (hraised : s.raised = none) (hcancel : s.cancel = false)
    (hu : s.users = .quit :: u) : continueCommand .interactive s = leaveScope none { s with users := u } := by
  simp [continueCommand, hraised, hcancel, hu]

theorem continueCommand_interactive_waits (hraised : s.raised = none) (hcancel : s.cancel = false) (hu : s.users = []) :
    continueCommand .interactive s = .next (waitForUser (pushRest .interactive s)) := by
  simp [continueCommand, hraised, hcancel, hu]

/-- While `singlestep` waits for the user only the environment acts, and only a kill ends the command. -/
theorem waitForUser_waits (hidle : s.seq = .idle) :
    (waitForUser s).seq = .idle ∧ (waitForUser s).trace = s.trace ∧ (waitForUser s).out = s.out ∧
      (waitForUser s).dir = s.dir ∧ ((boundary s).2 ≠ .kill → (waitForUser s).requests = s.requests) := by
  have hkept := boundary_kept s
  rcases settle_cases id s with ⟨hkill, e⟩ | ⟨_, e⟩ <;> rw [waitForUser, e]
  · exact ⟨rfl, hkept.trace, hkept.out, hkept.dir, fun hno => absurd hkill hno⟩
  · exact ⟨hkept.seq.trans hidle, hkept.trace, hkept.out, hkept.dir, fun _ => hkept.requests⟩

/-! ### `showint` (R173) -/

/-- `showint` notes the level `r` of INT, and prints it where it found the other one before. -/
def noteInt (last : Option Bool) (r : Bool) (s : State) : State :=
  { s with
    requests := .rest (.showInt (some r)) :: s.requests
    console := s.console ++ (if last = some (!r) then [.int r] else []) }

theorem showIntTurn_ok {last : Option Bool} (hidle : s.seq = .idle) (hok : (boundary s).2 = .ok) :
    showIntTurn last s =
      noteInt last (sensed (boundary s).1 .int) (perform (.sample .int) (boundary s).1) := by
  have hseq : (boundary s).1.seq = .idle := (boundary_kept s).seq.trans hidle
  have huntaken : (cancellable (boundary s).1.seq && (boundary s).1.cancel) = false := by rw [hseq]; rfl
  rw [showIntTurn, access_ok huntaken hok]
  match last with
  | none => simp [noteInt, pushRest]
  | some old =>
    by_cases hother : old = !sensed (boundary s).1 .int
    · simp [noteInt, pushRest, hother]
    · have hsame : old = sensed (boundary s).1 .int := by simpa using hother
      simp [noteInt, pushRest, hsame]

/-- A sample of a signal leaves all registers but the latched interrupt flags (R24). -/
theorem perform_sample_registers (g : Signal) (s : State) :
    (perform (.sample g) s).out = s.out ∧ (perform (.sample g) s).dir = s.dir ∧
      IocSetupKept s (perform (.sample g) s) := by
  refine ⟨rfl, rfl, ?_⟩
  rw [IocSetupKept, perform_ioc, accessEffect, touchPort_ioc]
  split <;> exact ⟨rfl, rfl, rfl⟩

theorem continueCommand_showInt {last : Option Bool} (hcancel : s.cancel = false) :
    continueCommand (.showInt last) s = .next (showIntTurn last s) := by
  simp [continueCommand, hcancel]

theorem continueCommand_showInt_cancelled {last : Option Bool} (hcancel : s.cancel = true) :
    continueCommand (.showInt last) s = .next { s with cancel := false } := by
  simp [continueCommand, hcancel]

/-- A turn of `showint` samples INT once and changes no latch, direction or flag of the controller. -/
theorem showIntTurn_samples {last : Option Bool} (hidle : s.seq = .idle) (hok : (boundary s).2 = .ok) :
    let t := showIntTurn last s
    let r := sensed (boundary s).1 .int
    t.seq = .idle ∧ t.requests = .rest (.showInt (some r)) :: s.requests ∧
      t.trace = s.trace ++ [.sampleSig .int r] ∧ t.out = s.out ∧ t.dir = s.dir ∧ t.own = s.own ∧ IocSetupKept s t ∧
      t.console = s.console ++ (if last = some (!r) then [.int r] else []) := by
  intro t r
  have ht : t = noteInt last r (perform (.sample .int) (boundary s).1) := showIntTurn_ok hidle hok
  have henv := boundary_kept s
  have hsample := perform_kept (.sample .int) (boundary s).1
  obtain ⟨hout, hdir, hen, hdflt, hcmp⟩ := perform_sample_registers .int (boundary s).1
  rw [ht]
  refine ⟨hsample.seq.trans (henv.seq.trans hidle), ?_, ?_, hout.trans henv.out, hdir.trans henv.dir,
    hsample.own.trans henv.own, ⟨hen.trans henv.en, hdflt.trans henv.dflt, hcmp.trans henv.cmp⟩, ?_⟩
  · rw [noteInt, hsample.requests, henv.requests]
  · exact (perform_trace _ _).trans (congrArg (· ++ _) henv.trace)
  · rw [noteInt, hsample.console, henv.console]

end

/-- Settles O60: a step takes up the request, and each turn is the rule above for that command. -/
theorem commandsExpand : Obligations.CommandsExpand := by
  refine ⟨fun _ _ _ _ => ⟨rfl, rfl, rfl, rfl, rfl, rfl, rfl, rfl, rfl⟩, fun s rest hidle => ?_⟩
  refine ⟨fun c hc hreq => ?expands, fun hreq => ?done, fun l hreq => ?print, fun i l hreq => ?op,
    fun a bank hreq => ?iowatch, fun a last hreq hraised => ?watch, fun a last v hreq hraised hv => ?watched,
    fun r => ⟨fun hreq => ?autostep, fun hreq => ?autostepArmed⟩, fun hreq => ?autostepEnd,
    fun hreq => ?left, fun why hreq => ?leftRefused, fun hreq => ?singlestep, fun hreq => ?interactive,
    fun hreq => ?showint, fun last hreq => ?showIntTurn⟩
  case expands =>
    have hpre : preamble c = none := by
      cases c with
      | iowatch | autostep | singlestep => exact hc.elim
      | _ => rfl
    exact (step_command hidle hreq).trans (startCommand_expands hpre)
  case done | autostepEnd | left | leftRefused => exact step_rest hidle hreq
  case print =>
    rw [step_rest hidle hreq]
    exact ⟨fun hraised _ hv => continueCommand_print hraised hv,
      fun hraised => continueCommand_steps_raised _ hraised⟩
  case op =>
    rw [step_rest hidle hreq]
    exact ⟨fun hraised => continueCommand_op hraised, fun hraised => continueCommand_steps_raised _ hraised⟩
  case iowatch => exact step_command hidle hreq
  case watch =>
    rw [step_rest hidle hreq]
    exact ⟨fun hcancel => continueCommand_watch hraised hcancel,
      fun hcancel => continueCommand_watch_cancelled hraised hcancel⟩
  case watched => exact (step_rest hidle hreq).trans (continueCommand_watched hraised hv)
  case autostep | singlestep =>
    rw [step_command hidle hreq]
    exact singlestepOn_runsInScope (s := { s with raised := none }) _ rest hidle
  case autostepArmed =>
    rw [step_rest hidle hreq]
    exact ⟨fun hraised hr => continueCommand_autostepArmed hidle hraised hr,
      fun hraised hr => continueCommand_autostepArmed_badRate hraised hr,
      fun hraised => continueCommand_autostepArmed_raised hraised⟩
  case interactive =>
    rw [step_rest hidle hreq]
    refine ⟨fun hends => continueCommand_interactive_ends hends, fun hraised hcancel =>
      ⟨fun u hu => ?_, fun u hu => continueCommand_interactive_quit hraised hcancel hu, fun hu => ?_⟩⟩
    · rw [continueCommand_interactive_advance (s := { s with requests := rest }) hraised hcancel hu]
      exact m1ReleaseWait_runsInScope (s := { s with users := u }) _ rest hidle
    · rw [continueCommand_interactive_waits (s := { s with requests := rest }) hraised hcancel hu,
        pushRest_requests_eq hreq]
      exact ⟨_, rfl, waitForUser_waits hidle⟩
  case showint => exact (step_command hidle hreq).trans (startCommand_expands rfl)
  case showIntTurn =>
    rw [step_rest hidle hreq]
    refine ⟨fun hcancel => continueCommand_showInt_cancelled hcancel, fun hcancel hok => ?_⟩
    have hok' : (boundary { s with requests := rest }).2 = .ok :=
      (boundary_fate_congr s { s with requests := rest } rfl rfl).trans hok
    exact ⟨_, _, continueCommand_showInt hcancel, showIntTurn_samples hidle hok'⟩

end Sys2Proof.Machine
end

section
/-! What a line of an operation is made of, said once (R26, R184, R192): boundaries, accesses, the sequencer's own moves, and
the assignments to the controller's modes that the line itself makes. -/

namespace Sys2Proof.Machine

/-! ### The moves of a line -/

/-- One move of a line that does `m`. -/
inductive LineMove (m : Micro) : State → State → Prop where
  /-- the environment acts -/
  | boundary (s : State) : LineMove m s (boundary s).1
  /-- an access, or part of one, or its event -/
  | accessed {s t : State} (h : AccessKept s t) : LineMove m s t
  /-- the failed samples are counted, a time is recorded or passes, a byte is kept -/
  | noted (polls : Nat) (t0 now : Quantity) (result : Option Byte) (s : State) :
    LineMove m s { s with polls := polls, t0 := t0, now := now, result := result }
  | jumped (k : Nat) (s : State) : LineMove m s (jumpTo k s)
  | returned (s : State) : LineMove m s (opReturn s)
  | killed (s : State) : LineMove m s (takeKill s)
  | cancelled {s : State} (h : (cancellable s.seq && s.cancel) = true) : LineMove m s (takeCancel s)
  | aborted {s : State} (p : Prim) (pos : Pos) (h : s.cfg.transportMayFail = true) :
    LineMove m s (raiseFault (.transportAbort p pos) s)
  | timedOut (w : Wait) (s : State) : LineMove m s (raiseFault (.timeout w) s)
  | failed {f : Fault} (h : m = .fail f) (s : State) : LineMove m s (raiseFault f s)
  | owned {o : BusOwnership} (h : m = .own o) (s : State) : LineMove m s (setOwn o s)
  | moded {c : ClockMode} (h : m = .mode c) (s : State) : LineMove m s (setClockMode c s)
  | armed (h : m = .armed) (s : State) : LineMove m s (setArmed s)
  | disarmed (h : m = .disarmed) (s : State) : LineMove m s (setDisarmed s)

/-- Moves of a line that does `m`, one after another. -/
abbrev LineMoves (m : Micro) : State → State → Prop := Relation.ReflTransGen (LineMove m)

/-- The transport fails an access only where it may (R184). -/
theorem transportMayFail_of_abort {s : State} {n : Nat} (h : (boundary s).2 = .abort n) :
    s.cfg.transportMayFail = true := by
  obtain ⟨l, _, hfate⟩ := fate_of_boundary (s := s) (by simp [h])
  rw [h] at hfate
  cases hmay : s.cfg.transportMayFail with
  | true => rfl
  | false => cases hl : l.fate <;> simp [fateOf, hl, hmay] at hfate

section
variable {m : Micro}

theorem lineMoves_advance (k : Nat) (l : ProgLine) (s : State) : LineMoves m s (advance k l s) := .single (.jumped _ s)

theorem lineMoves_perform (p : Prim) (s : State) : LineMoves m s (perform p s) := .single (.accessed (perform_kept p s))

theorem lineMoves_pollFailed (w : Wait) (c : Option Nat) (s : State) : LineMoves m s (pollFailed w c s) := by
  have hcount : LineMoves m s { s with polls := s.polls + 1 } := .single (.noted (s.polls + 1) s.t0 s.now s.result s)
  unfold pollFailed
  split
  · exact hcount
  · split
    · rcases timeOut_cases w c s with ⟨k, _, e⟩ | ⟨_, e⟩ <;> rw [e]
      · exact .single (.jumped k s)
      · exact .single (.timedOut w s)
    · exact hcount

/-- What follows the sample of a poll: the next line, or a failed sample. -/
theorem lineMoves_sampled (ready : Prop) [Decidable ready] (p : Prim) (k : Nat) (l : ProgLine) (w : Wait) (c : Option Nat)
    (s : State) :
    LineMoves m s (if ready then advance k l (perform p s) else pollFailed w c (perform p s)) := by
  refine (lineMoves_perform p s).trans ?_
  split
  · exact lineMoves_advance k l _
  · exact lineMoves_pollFailed w c _

/-- An access is made, or it is not and all that happens is moves of a line. -/
theorem lineMoves_access_or (p : Prim) (pos : Pos) (f : State → State) (s : State) :
    access p pos f s = f (boundary s).1 ∨ LineMoves m s (access p pos f s) := by
  have hb : LineMoves m s (boundary s).1 := .single (.boundary s)
  rcases access_cases p pos f s with ⟨hc, e⟩ | ⟨_, ⟨_, e⟩ | ⟨n, hn, e⟩ | ⟨_, e⟩⟩
  · exact .inr (e ▸ hb.tail (.cancelled hc))
  · exact .inl e
  · have habort := abortEffect_kept p n (boundary s).1
    have hmay : (abortEffect p n (boundary s).1).cfg.transportMayFail = true := by
      rw [habort.cfg, (boundary_kept s).cfg]
      exact transportMayFail_of_abort hn
    exact .inr (e ▸ (hb.tail (.accessed habort)).tail (.aborted p pos hmay))
  · exact .inr (e ▸ hb.tail (.killed _))

section
variable {f : State → State} (hf : ∀ t, LineMoves m t (f t))
include hf

theorem lineMoves_access (p : Prim) (pos : Pos) (s : State) : LineMoves m s (access p pos f s) := by
  rcases lineMoves_access_or (m := m) p pos f s with e | h
  · rw [e]
    exact .head (.boundary s) (hf _)
  · exact h

theorem lineMoves_settle (s : State) : LineMoves m s (settle f s) := by
  have hb : LineMoves m s (boundary s).1 := .single (.boundary s)
  rcases settle_cases f s with ⟨_, e⟩ | ⟨_, e⟩ <;> rw [e]
  · exact hb.tail (.killed _)
  · exact hb.trans (hf _)

theorem lineMoves_sleepFor (d : State → Quantity) (s : State) : LineMoves m s (sleepFor d f s) := by
  have hbefore : LineMoves m s (boundary s).1 := .single (.boundary s)
  have hinside : LineMoves m s (boundary (boundary s).1).1 := hbefore.tail (.boundary _)
  have hslept (e : Event) (u : State) : LineMove m u (emit e u) := .accessed { AccessKept.refl u with }
  unfold sleepFor
  dsimp only
  split
  · next hc => exact hbefore.tail (.cancelled hc)
  · split
    · exact hbefore.tail (.killed _)
    · split
      · next hc => exact (hinside.tail (hslept _ _)).tail (.cancelled (s := emit _ _) hc)
      · split
        · exact hinside.tail (.killed _)
        · exact ((hinside.tail (.noted _ _ _ _ _)).tail (hslept _ _)).trans (hf _)

end

end

/-- ALL THAT A LINE CAN DO is moves of a line. -/
theorem doLine_moves (k : Nat) (l : ProgLine) (s : State) : LineMoves l.micro s (doLine k l s) := by
  obtain ⟨pos, micro, jump⟩ := l
  cases micro with simp only [doLine]
  | prim p => exact lineMoves_access (fun t => (lineMoves_perform p t).trans (lineMoves_advance k _ _)) _ _ s
  | readData =>
    refine lineMoves_access (fun t => (lineMoves_perform (.samplePort .dataLo) t).trans ?_) _ _ s
    exact .head (.noted _ _ _ (some (portIn t .dataLo)) _) (lineMoves_advance k _ _)
  | poll | pollFlag => exact lineMoves_access (fun t => lineMoves_sampled _ _ k _ _ _ t) _ _ s
  | sleep | pace => exact lineMoves_sleepFor (lineMoves_advance k _) _ s
  | stampT0 => exact .head (.noted s.polls s.now s.now s.result s) (lineMoves_advance k _ _)
  | own => exact .head (.owned rfl s) (lineMoves_advance k _ _)
  | mode => exact .head (.moded rfl s) (lineMoves_advance k _ _)
  | fail => exact .single (.failed rfl s)
  | armed => exact lineMoves_settle (fun t => .head (.armed rfl t) (lineMoves_advance k _ _)) s
  | disarmed => exact .head (.disarmed rfl s) (lineMoves_advance k _ _)
  | whileArmed exit =>
    split
    · exact lineMoves_advance k _ s
    · exact .single (.jumped exit s)
  | ret => exact .single (.returned s)

/-- ALL THAT A TICK CAN DO: the moves of the line at which the sequencer stands, or past the last one a return. -/
theorem tick_moves (prog : List ProgLine) {i : Instr} {k : Nat} {s : State} (hq : s.seq = .running i k) :
    (∃ l, prog[k]? = some l ∧ LineMoves l.micro s (tick prog s)) ∨ tick prog s = opReturn s := by
  cases hl : prog[k]? with
  | some l => exact .inl ⟨l, rfl, tick_line hq hl ▸ doLine_moves k l s⟩
  | none => exact .inr (tick_end hq hl)

/-! ### Where the programs assign a mode and raise a fault -/

/-- A line that assigns a mode stands where the pseudocode says (R91, R95, R131, R132, R141, R142), and a line that raises a
fault raises a timeout (R100). -/
def placed (l : ProgLine) : Bool :=
  match l.micro with
  | .own .acquired => l.pos == ⟨.takeBus, 4, 0⟩
  | .own .released => l.pos == ⟨.releaseBus, 1, 0⟩
  | .armed => l.pos == ⟨.singlestepOn, 4, 0⟩
  | .disarmed => l.pos == ⟨.singlestepOff, 3, 0⟩
  | .mode _ => [⟨.normalClock, 2, 0⟩, ⟨.slowClock, 2, 0⟩, ⟨.slowClock, 5, 0⟩].contains l.pos
  | .fail (.transportAbort _ _) => false
  | _ => true

theorem programOf_placed (c : Params) (i : Instr) : (programOf c i).all placed = true := by
  cases i with
  | memRead | memWrite | ioRead | ioWrite | bankSelect | takeBusBank | latchAddress =>
    simp only [programOf, memReadProgram, memWriteProgram, ioReadProgram, ioWriteProgram, bankSelectProgram,
      takeBusBankProgram, latchAddressProgram, readCycle, writeCycle, latchLines]
    cases c.addrPortOrder <;> rfl
  | releaseBus r => cases r <;> rfl
  | reset | takeBus | normalClock | slowClock | singlestepOn | singlestepOff | autostep | stepWait | m1ReleaseWait => rfl

theorem placed_of_program {c : Params} {i : Instr} {k : Nat} {l : ProgLine} (hl : (programOf c i)[k]? = some l) :
    placed l = true :=
  List.all_eq_true.mp (programOf_placed c i) l (List.mem_of_getElem? hl)

/-! ### The modes -/

/-- A mode changes only at a line that assigns it. -/
structure AssignedBy (m : Micro) (s t : State) : Prop where
  own : t.own = s.own ∨ m = .own t.own
  arm : t.arm = s.arm ∨ m = .armed ∧ t.arm = .armed ∨ m = .disarmed ∧ t.arm = .disarmed
  mode : t.clockMode = s.clockMode ∨ m = .armed ∨ m = .disarmed ∨ ∃ c, m = .mode c

theorem AssignedBy.of_eq {m : Micro} {s t : State} (hown : t.own = s.own) (harm : t.arm = s.arm)
    (hmode : t.clockMode = s.clockMode) : AssignedBy m s t := ⟨.inl hown, .inl harm, .inl hmode⟩

theorem AssignedBy.trans {m : Micro} {s t u : State} (h : AssignedBy m s t) (k : AssignedBy m t u) : AssignedBy m s u where
  own := k.own.elim (fun e => e ▸ h.own) .inr
  arm := k.arm.elim (fun e => e ▸ h.arm) .inr
  mode := k.mode.elim (fun e => e ▸ h.mode) .inr

theorem LineMove.assignedBy {m : Micro} {s t : State} (h : LineMove m s t) : AssignedBy m s t := by
  cases h with
  | boundary =>
    have hb := boundary_kept s
    exact .of_eq hb.own hb.arm hb.clockMode
  | accessed h => exact .of_eq h.own h.arm h.clockMode
  | noted | jumped | returned | killed | cancelled | aborted | timedOut | failed => exact .of_eq rfl rfl rfl
  | owned h => exact ⟨.inr h, .inl rfl, .inl rfl⟩
  | moded h => exact ⟨.inl rfl, .inl rfl, .inr (.inr (.inr ⟨_, h⟩))⟩
  | armed h => exact ⟨.inl rfl, .inr (.inl ⟨h, rfl⟩), .inr (.inl h)⟩
  | disarmed h => exact ⟨.inl rfl, .inr (.inr ⟨h, rfl⟩), .inr (.inr (.inl h))⟩

theorem LineMoves.assignedBy {m : Micro} {s t : State} (h : LineMoves m s t) : AssignedBy m s t := by
  induction h with
  | refl => exact .of_eq rfl rfl rfl
  | tail _ hmove ih => exact ih.trans hmove.assignedBy

section
variable {l : ProgLine} (hl : placed l = true)
include hl

theorem pos_of_own {o : BusOwnership} (h : l.micro = .own o) :
    l.pos = ⟨.takeBus, 4, 0⟩ ∧ o = .acquired ∨ l.pos = ⟨.releaseBus, 1, 0⟩ ∧ o = .released := by
  cases o <;> simpa [placed, h] using hl

theorem pos_of_armed (h : l.micro = .armed) : l.pos = ⟨.singlestepOn, 4, 0⟩ := by simpa [placed, h] using hl

theorem pos_of_disarmed (h : l.micro = .disarmed) : l.pos = ⟨.singlestepOff, 3, 0⟩ := by simpa [placed, h] using hl

theorem pos_of_mode {c : ClockMode} (h : l.micro = .mode c) :
    l.pos = ⟨.normalClock, 2, 0⟩ ∨ l.pos = ⟨.slowClock, 2, 0⟩ ∨ l.pos = ⟨.slowClock, 5, 0⟩ := by
  simpa [placed, h] using hl

theorem AssignedBy.own_at {s t : State} (h : AssignedBy l.micro s t) (hne : t.own ≠ s.own) :
    l.pos = ⟨.takeBus, 4, 0⟩ ∧ t.own = .acquired ∨ l.pos = ⟨.releaseBus, 1, 0⟩ ∧ t.own = .released :=
  pos_of_own hl (h.own.resolve_left hne)

theorem AssignedBy.arm_at {s t : State} (h : AssignedBy l.micro s t) (hne : t.arm ≠ s.arm) :
    l.pos = ⟨.singlestepOn, 4, 0⟩ ∧ t.arm = .armed ∨ l.pos = ⟨.singlestepOff, 3, 0⟩ ∧ t.arm = .disarmed :=
  (h.arm.resolve_left hne).imp (.imp_left (pos_of_armed hl)) (.imp_left (pos_of_disarmed hl))

theorem AssignedBy.mode_at {s t : State} (h : AssignedBy l.micro s t) (hne : t.clockMode ≠ s.clockMode) :
    l.pos ∈ ([⟨.normalClock, 2, 0⟩, ⟨.slowClock, 2, 0⟩, ⟨.slowClock, 5, 0⟩, ⟨.singlestepOn, 4, 0⟩,
      ⟨.singlestepOff, 3, 0⟩] : List Pos) := by
  rcases h.mode.resolve_left hne with hm | hm | ⟨c, hm⟩
  · simp [pos_of_armed hl hm]
  · simp [pos_of_disarmed hl hm]
  · rcases pos_of_mode hl hm with e | e | e <;> simp [e]

end

/-- Settles O50: a tick makes the moves of one line, and each line that assigns a mode stands at its place. -/
theorem onlyTheseLinesChangeModes : Obligations.OnlyTheseLinesChangeModes := by
  rintro s t i k hq rfl
  rcases tick_moves (programOf s.cfg i) hq with ⟨l, hl, hmoves⟩ | e
  · have hplaced := placed_of_program hl
    have h := hmoves.assignedBy
    exact ⟨fun hne => ⟨l, hl, h.own_at hplaced hne⟩, fun hne => ⟨l, hl, h.arm_at hplaced hne⟩,
      fun hne => ⟨l, hl, h.mode_at hplaced hne⟩⟩
  · rw [e]
    exact ⟨fun hne => absurd rfl hne, fun hne => absurd rfl hne, fun hne => absurd rfl hne⟩

end Sys2Proof.Machine
end

section
/-! Faults and refusals over a step (R183, R184, R186): operands outside their domains are refused, no step clears a fault, and
without transport failures no step raises a `TransportAbort`. -/

namespace Sys2Proof.Machine

/-! ### Refusals -/

/-- Settles O7: an operation is issued after the check of its operands, which answers first. -/
theorem outOfDomainRefused : Obligations.OutOfDomainRefused := by
  intro i s
  rw [exec_eq_issue]
  rcases issue_cases i (allowed s i) (programOf s.cfg i) s with
    ⟨hw, hrefused⟩ | ⟨hw, _, e⟩ | ⟨hw, _, _, e⟩ | ⟨hw, _, _, e⟩
  · exact ⟨fun _ => hrefused, fun h => absurd h hw⟩
  all_goals
    rw [e]
    exact ⟨absurd hw, fun _ _ _ => nofun⟩

/-! ### Faults that stay -/

/-- A fault on record stays on record, though a later one may replace it (R186). -/
def FaultStays (s t : State) : Prop := s.fault ≠ none → t.fault ≠ none

theorem FaultStays.of_eq {s t : State} (h : t.fault = s.fault) : FaultStays s t := fun hs => h ▸ hs

theorem faultStays_law : StepLaw FaultStays where
  trans h k hs := k (h hs)
  control h := h.fault
  env h := .of_eq h.fault
  write {s w} _ := .of_eq (applyWrite_kept s w).fault
  touch p s := .of_eq (touchPort_kept p s).fault
  begins _ _ := .of_eq rfl

/-- Settles O46: no move of the sequencer clears a fault, and nothing else writes it. -/
theorem faultsAreSticky : Obligations.FaultsAreSticky := by
  intro s t hstep hs
  rw [Option.isSome_iff_ne_none] at hs ⊢
  exact faultStays_law.step hstep hs

/-! ### A transport that does not fail -/

/-- No `TransportAbort` is new where the transport may not fail. -/
structure NoNewAbort (s t : State) : Prop where
  cfg : t.cfg = s.cfg
  fault : s.cfg.transportMayFail = false → ∀ p pos, t.fault = some (.transportAbort p pos) →
    s.fault = some (.transportAbort p pos)

section
variable {s t u : State}

theorem NoNewAbort.of_eq (hcfg : t.cfg = s.cfg) (h : t.fault = s.fault) : NoNewAbort s t :=
  ⟨hcfg, fun _ _ _ ht => h ▸ ht⟩

theorem NoNewAbort.trans (h : NoNewAbort s t) (k : NoNewAbort t u) : NoNewAbort s u :=
  ⟨k.cfg.trans h.cfg, fun hs p pos hu => h.fault hs p pos (k.fault (by rwa [h.cfg]) p pos hu)⟩

theorem noNewAbort_timeout (w : Wait) (s : State) : NoNewAbort s (raiseFault (.timeout w) s) := ⟨rfl, fun _ _ _ => nofun⟩

/-- The line raises no `TransportAbort` itself. -/
def RaisesNoAbort (m : Micro) : Prop := ∀ p pos, m ≠ .fail (.transportAbort p pos)

theorem raisesNoAbort_of_placed {l : ProgLine} (hl : placed l = true) : RaisesNoAbort l.micro := fun _ _ h => by
  simp [placed, h] at hl

/-- What a command does between its operations raises none either. -/
theorem raisesNoAbort_ret : RaisesNoAbort .ret := fun _ _ => nofun

section
variable {m : Micro} (hm : RaisesNoAbort m)
include hm

theorem LineMove.noNewAbort (h : LineMove m s t) : NoNewAbort s t := by
  cases h with
  | boundary => exact .of_eq (boundary_kept s).cfg (boundary_kept s).fault
  | accessed h => exact .of_eq h.cfg h.fault
  | aborted p pos hmay => exact ⟨rfl, fun hnot => absurd (hnot.symm.trans hmay) nofun⟩
  | timedOut w => exact noNewAbort_timeout w s
  | @failed f hf =>
    cases f with
    | timeout w => exact noNewAbort_timeout w s
    | transportAbort p pos => exact absurd hf (hm p pos)
  | noted | jumped | returned | killed | cancelled | owned | moded | armed | disarmed => exact .of_eq rfl rfl

theorem LineMoves.noNewAbort (h : LineMoves m s t) : NoNewAbort s t := by
  induction h with
  | refl => exact .of_eq rfl rfl
  | tail _ hmove ih => exact ih.trans (hmove.noNewAbort hm)

end

theorem tick_noNewAbort (c : Params) (i : Instr) (s : State) : NoNewAbort s (tick (programOf c i) s) := by
  cases hq : s.seq with
  | idle => exact .of_eq (by rw [tick_idle hq]) (by rw [tick_idle hq])
  | running j k =>
    rcases tick_moves (programOf c i) hq with ⟨l, hl, hmoves⟩ | e
    · exact hmoves.noNewAbort (raisesNoAbort_of_placed (placed_of_program hl))
    · rw [e]
      exact .of_eq rfl rfl

theorem runOp_noNewAbort (c : Params) (i : Instr) (s : State) : NoNewAbort s (runOp (programOf c i) s) :=
  runProg_induct (P := NoNewAbort s) (fun u _ _ _ hu => hu.trans (tick_noNewAbort c i u)) _ (.of_eq rfl rfl)

theorem exec_noNewAbort {i : Instr} (h : exec i s = .next t) : NoNewAbort s t := by
  obtain ⟨_, _, rfl⟩ := exec_next h
  exact NoNewAbort.trans (t := beginOp i s) (.of_eq rfl rfl) (runOp_noNewAbort s.cfg i _)

theorem settle_noNewAbort (s : State) : NoNewAbort s (settle id s) :=
  LineMoves.noNewAbort raisesNoAbort_ret (lineMoves_settle (fun _ => .refl) s)

theorem showIntTurn_noNewAbort (last : Option Bool) (s : State) : NoNewAbort s (showIntTurn last s) := by
  unfold showIntTurn
  rcases lineMoves_access_or (m := .ret) (.sample .int) ⟨.showInt, 1, 0⟩ _ s with e | h
  · have hb := boundary_kept s
    have hp := perform_kept (.sample .int) (boundary s).1
    rw [e]
    dsimp only
    split <;> exact .of_eq (hp.cfg.trans hb.cfg) (hp.fault.trans hb.fault)
  · exact h.noNewAbort raisesNoAbort_ret

theorem Bookkeeping.noNewAbort (h : Bookkeeping s t) : NoNewAbort s t := .of_eq h.cfg (by rw [h])

theorem RequestTurn.noNewAbort (h : RequestTurn s t) : NoNewAbort s t := by
  cases h with
  | issued i run before => exact before.noNewAbort.trans (exec_noNewAbort run)
  | noted note => exact note.noNewAbort
  | environment => exact .of_eq (boundary_kept s).cfg (boundary_kept s).fault
  | waited before => exact before.noNewAbort.trans (settle_noNewAbort _)
  | sampledInt last before => exact before.noNewAbort.trans (showIntTurn_noNewAbort last _)

end

/-- Settles O47: an access aborts only where the transport may fail, and every other fault is a timeout. -/
theorem reliableTransportNeverAborts : Obligations.ReliableTransportNeverAborts := by
  intro s t hreliable hstep
  rcases step_cases hstep with ⟨i, _, _, rfl⟩ | ⟨_, hturn⟩
  · exact (runOp_noNewAbort _ i s).fault hreliable
  · exact hturn.noNewAbort.fault hreliable

end Sys2Proof.Machine
end

section
/-! A line whose access the transport fails, and a line at whose boundary the controller is killed (R184, R192, U10). -/

namespace Sys2Proof.Machine

section
variable {s : State} {p : Prim} {pos : Pos} {d : State → Quantity} {f : State → State}

theorem untaken_iff : Untaken s ↔ (cancellable s.seq && (boundary s).1.cancel) = false := by
  rw [Untaken, (boundary_kept s).seq]

/-! ### An abort -/

theorem access_aborted (hu : Untaken s) {n : Nat} (hf : (boundary s).2 = .abort n) :
    access p pos f s = raiseFault (.transportAbort p pos) (abortEffect p n (boundary s).1) := by
  unfold Untaken at hu
  unfold access
  simp only [hu, hf, Bool.false_eq_true, if_false]

/-- A line whose access aborts does nothing but raise the fault, at its own position (R184). -/
theorem doLine_aborted (hu : Untaken s) {n : Nat} (hf : (boundary s).2 = .abort n) {l : ProgLine}
    (hl : accessOf l.micro = some p) (k : Nat) :
    doLine k l s = raiseFault (.transportAbort p l.pos) (abortEffect p n (boundary s).1) := by
  obtain ⟨pos, micro, jump⟩ := l
  cases micro with simp only [doLine]
  | prim | readData | poll | pollFlag =>
    obtain rfl := Option.some.inj hl
    exact access_aborted hu hf
  | _ => cases hl

/-- None of the access took effect. -/
theorem abortEffect_zero (p : Prim) (s : State) : abortEffect p 0 s = s := by cases p <;> rfl

/-- Where the sequencer stands after a fault at line `k`: at the operation's own scoped exit, or idle (R191). -/
def exitFrom (i : Instr) (k : Nat) : Seq :=
  match scopeHandler i with
  | some h => if k < h then .running i h else .idle
  | none => .idle

theorem raiseFault_seq_running {i : Instr} {k : Nat} (hq : s.seq = .running i k) (g : Fault) :
    (raiseFault g s).seq = exitFrom i k := by
  cases h : scopeHandler i <;> simp [raiseFault, exitFrom, hq, h]

/-! ### A kill -/

theorem access_killed (hu : Untaken s) (hf : (boundary s).2 = .kill) : access p pos f s = takeKill (boundary s).1 := by
  unfold Untaken at hu
  unfold access
  simp only [hu, hf, Bool.false_eq_true, if_false]

theorem sleepFor_killed (hu : Untaken s) (hf : (boundary s).2 = .kill) : sleepFor d f s = takeKill (boundary s).1 := by
  unfold Untaken at hu
  unfold sleepFor
  simp only [hu, hf, Bool.false_eq_true, if_false, if_true]

theorem sleepFor_killed_inside (hu : Untaken s) (hf : (boundary s).2 ≠ .kill) (hu' : Untaken (boundary s).1)
    (hf' : (boundary (boundary s).1).2 = .kill) : sleepFor d f s = takeKill (boundary (boundary s).1).1 := by
  unfold Untaken at hu hu'
  unfold sleepFor
  simp only [hu, hf, hu', hf', Bool.false_eq_true, if_false, if_true]

/-- A kill at the boundary before a line that has one ends the operation there. -/
theorem doLine_killed (hu : Untaken s) (hf : (boundary s).2 = .kill) {l : ProgLine}
    (hl : (accessOf l.micro).isSome = true ∨ isSleep l.micro = true ∨ l.micro = .armed) (k : Nat) :
    doLine k l s = takeKill (boundary s).1 := by
  obtain ⟨pos, micro, jump⟩ := l
  cases micro with simp only [doLine]
  | prim | readData | poll | pollFlag => exact access_killed hu hf
  | sleep | pace => exact sleepFor_killed hu hf
  | armed => exact if_pos hf
  | _ => simp [accessOf, isSleep] at hl

/-- A kill inside a sleep ends the operation there. -/
theorem doLine_killed_inside (hu : Untaken s) (hf : (boundary s).2 ≠ .kill) (hu' : Untaken (boundary s).1)
    (hf' : (boundary (boundary s).1).2 = .kill) {l : ProgLine} (hl : isSleep l.micro = true) (k : Nat) :
    doLine k l s = takeKill (boundary (boundary s).1).1 := by
  obtain ⟨pos, micro, jump⟩ := l
  cases micro with simp only [doLine]
  | sleep | pace => exact sleepFor_killed_inside hu hf hu' hf'
  | _ => cases hl

theorem EnvKept.killFrame {t : State} (h : EnvKept s t) : KillFrame s (takeKill t) :=
  ⟨rfl, rfl, h.out, h.dir, ⟨h.en, h.dflt, h.cmp⟩, h.trace, h.own, h.clockMode, h.arm, h.fault,
    congrArg dropRest h.requests⟩

end

/-- Settles O44: the line raises the fault in the state that the boundary and the part of the access that took effect left. -/
theorem transportAbortStops : Obligations.TransportAbortStops := by
  rintro s t i k n l p hq hl hp hf hc rfl
  rw [tick_line hq hl, doLine_aborted (untaken_iff.mpr hc) hf hp]
  have hb := boundary_kept s
  have ha := abortEffect_kept p n (boundary s).1
  refine ⟨(abortEffect_trace p n _).trans hb.trace, rfl, rfl, ha.own.trans hb.own, ha.clockMode.trans hb.clockMode,
    ha.arm.trans hb.arm, ?_, ?_⟩
  · rintro rfl
    rw [abortEffect_zero]
    exact ⟨hb.out, hb.dir, hb.en, hb.dflt, hb.cmp⟩
  · rw [raiseFault_seq_running (ha.seq.trans (hb.seq.trans hq))]
    cases i <;> rfl

/-- Settles O49: nothing stands between the boundary and the kill. -/
theorem killRunsNoHandler : Obligations.KillRunsNoHandler := by
  rintro s t i k l hq hl rfl hc
  rw [tick_line hq hl]
  refine ⟨fun hline hkill => ?_, fun hsleep hok hkill hc' => ?_⟩
  · rw [doLine_killed (untaken_iff.mpr hc) hkill hline]
    exact (boundary_kept s).killFrame
  · have hinside : Untaken (boundary s).1 := untaken_iff.mpr (by rwa [(boundary_kept s).seq])
    rw [doLine_killed_inside (untaken_iff.mpr hc) hok hinside hkill hsleep]
    exact ((boundary_kept s).trans (boundary_kept _)).killFrame

end Sys2Proof.Machine
end

section
/-! Operations without a scope of their own take no cancellation, and lose none that is raised while they run (R192, R193). -/

namespace Sys2Proof.Machine

/-! ### A cancellation that is raised -/

/-- A pending cancellation stays pending, and the canceller's act outside a handler raises one (R192, R193). -/
theorem applyActs_pending {s : State} {l : List EnvAct}
    (h : s.cancel = true ∨ inHandler s = false ∧ EnvAct.cancel ∈ l) : (applyActs s l).cancel = true := by
  induction l generalizing s with
  | nil => exact h.resolve_right fun ⟨_, hl⟩ => nomatch hl
  | cons a l ih =>
    refine ih ?_
    rw [applyAct_cancel, (applyAct_kept s a).inHandler]
    rcases h with h | ⟨hin, hl⟩
    · exact .inl (by simp [h])
    · rcases List.mem_cons.mp hl with rfl | hl
      · exact .inl (by simp [hin])
      · exact .inr ⟨hin, hl⟩

/-! ### Deferring -/

/-- No scope of an operation is open (R191). -/
def Outside (s : State) : Prop := ∀ i k, s.seq = .running i k → scopeHandler i = none

/-- From `s` to `t` no cancellation was lost: one that was pending is pending, and so is one that was raised at a slot of the
script that was used, unless the handler of a command's scope ran. -/
structure Defers (s t : State) : Prop where
  outside : Outside t
  pending : s.cancel = true → t.cancel = true
  handler : inHandler s = false → inHandler t = false
  raised : ∃ used, s.env = used ++ t.env ∧
    (inHandler s = false → (∃ l ∈ used, EnvAct.cancel ∈ l.acts) → t.cancel = true)

section
variable {s t u : State}

theorem Defers.trans (h : Defers s t) (k : Defers t u) : Defers s u := by
  obtain ⟨used, henv, hraised⟩ := h.raised
  obtain ⟨used', henv', hraised'⟩ := k.raised
  refine ⟨k.outside, fun hs => k.pending (h.pending hs), fun hs => k.handler (h.handler hs), used ++ used',
    by rw [henv, henv', List.append_assoc], ?_⟩
  rintro hin ⟨l, hl, hact⟩
  rcases List.mem_append.mp hl with hl | hl
  · exact k.pending (hraised hin ⟨l, hl, hact⟩)
  · exact hraised' (h.handler hin) ⟨l, hl, hact⟩

theorem Outside.inHandler (ho : Outside s) {i : Instr} {k : Nat} (hq : s.seq = .running i k) :
    inHandler s = commandHandler s.requests := by
  simp [Machine.inHandler, hq, ho i k hq]

theorem inHandler_idle (hq : s.seq = .idle) : inHandler s = false := by
  simp [inHandler, hq]

/-- A move that uses no slot and touches no pending cancellation: the operation ends, or it goes on for the same caller. -/
theorem Defers.of_move (ho : Outside s) (henv : t.env = s.env) (hcancel : t.cancel = s.cancel)
    (hseq : SameOperation s.seq t.seq) (hreq : t.seq ≠ .idle → t.requests = s.requests) : Defers s t := by
  have hraised : ∃ used, s.env = used ++ t.env ∧
      (inHandler s = false → (∃ l ∈ used, EnvAct.cancel ∈ l.acts) → t.cancel = true) :=
    ⟨[], henv.symm, fun _ ⟨_, hl, _⟩ => nomatch hl⟩
  rcases hseq with hidle | ⟨i, k, k', hs, ht⟩
  · exact ⟨fun i k hq => (nomatch hidle.symm.trans hq), fun h => hcancel.trans h, fun _ => inHandler_idle hidle, hraised⟩
  · have hot : Outside t := fun j m hq => by
      obtain ⟨rfl, _⟩ := Seq.running.inj (ht.symm.trans hq)
      exact ho i k hs
    refine ⟨hot, fun h => hcancel.trans h, fun h => ?_, hraised⟩
    rw [hot.inHandler ht, hreq (by rw [ht]; exact nofun), ← ho.inHandler hs]
    exact h

theorem Defers.refl (ho : Outside s) : Defers s s := .of_move ho rfl rfl (.refl _) fun _ => rfl

/-- THE ENVIRONMENT'S TURN (R192). -/
theorem defers_boundary (ho : Outside s) : Defers s (boundary s).1 := by
  have hb := boundary_kept s
  have hout : Outside (boundary s).1 := fun i k hq => ho i k (hb.seq.symm.trans hq)
  have hhandler : inHandler s = false → inHandler (boundary s).1 = false := fun h => hb.inHandler.trans h
  cases e : s.env with
  | nil =>
    refine ⟨hout, fun h => ?_, hhandler, [], ?_, fun _ ⟨_, hl, _⟩ => nomatch hl⟩
    · rw [boundary_nil e]
      exact h
    · rw [boundary_env, e]
      rfl
  | cons l r =>
    have hacts (h : s.cancel = true ∨ inHandler s = false ∧ EnvAct.cancel ∈ l.acts) : (boundary s).1.cancel = true := by
      rw [boundary_cons e]
      exact applyActs_pending (s := { s with env := r }) h
    refine ⟨hout, fun h => hacts (.inl h), hhandler, [l], by rw [boundary_env, e]; rfl, ?_⟩
    rintro hin ⟨_, hl, hact⟩
    obtain rfl := List.mem_singleton.mp hl
    exact hacts (.inr ⟨hin, hact⟩)

/-- No cancellation is taken outside a scope (R192). -/
theorem Outside.not_cancellable (ho : Outside s) : cancellable s.seq = false := by
  cases hq : s.seq with
  | idle => rfl
  | running i k => simp [cancellable, ho i k hq]

theorem LineMove.defers {m : Micro} (h : LineMove m s t) (ho : Outside s) : Defers s t := by
  cases h with
  | boundary => exact defers_boundary ho
  | accessed h => exact .of_move ho h.env h.cancel (h.seq ▸ .refl _) fun _ => h.requests
  | noted | owned | moded | armed | disarmed => exact .of_move ho rfl rfl (.refl _) fun _ => rfl
  | jumped k => exact .of_move ho rfl rfl (jumpTo_control k s).seq fun _ => rfl
  | returned => exact .of_move ho rfl rfl (.inl rfl) fun _ => rfl
  | killed => exact .of_move ho rfl rfl (.inl rfl) fun hne => absurd rfl hne
  | cancelled h => simp [ho.not_cancellable] at h
  | aborted | timedOut | failed => exact .of_move ho rfl rfl (raiseFault_control _ s).seq fun _ => rfl

theorem LineMoves.defers {m : Micro} (h : LineMoves m s t) (ho : Outside s) : Defers s t := by
  induction h with
  | refl => exact .refl ho
  | tail _ hmove ih => exact ih.trans (hmove.defers ih.outside)

theorem tick_defers (prog : List ProgLine) {i : Instr} {k : Nat} (hq : s.seq = .running i k) (ho : Outside s) :
    Defers s (tick prog s) := by
  rcases tick_moves prog hq with ⟨l, _, hmoves⟩ | e
  · exact hmoves.defers ho
  · rw [e]
    exact .of_move ho rfl rfl (.inl rfl) fun _ => rfl

theorem runOp_defers (prog : List ProgLine) (ho : Outside s) : Defers s (runOp prog s) :=
  runProg_induct (P := Defers s) (fun _ _ _ hq hu => hu.trans (tick_defers prog hq hu.outside)) _ (.refl ho)

end

/-- The operations other than `SLOW_CLOCK` and `AUTOSTEP` open no scope (R191). -/
theorem scopeHandler_eq_none {i : Instr} (h : ∀ r, i ≠ .slowClock r ∧ i ≠ .autostep r) : scopeHandler i = none := by
  cases i with
  | slowClock r => exact absurd rfl (h r).1
  | autostep r => exact absurd rfl (h r).2
  | _ => rfl

/-- Settles O48: the run begins outside every scope, and none of its moves loses a cancellation. -/
theorem othersDeferCancellation : Obligations.OthersDeferCancellation := by
  intro i s t hi hrun
  obtain ⟨u, k, hq, hcancel, henv, hreq, rfl⟩ : ∃ u k, u.seq = .running i k ∧ u.cancel = s.cancel ∧ u.env = s.env ∧
      u.requests = s.requests ∧ t = runOp (programOf s.cfg i) u := by
    rcases hrun with hexec | ⟨k, hq, hstep⟩
    · exact ⟨beginOp i s, 0, rfl, rfl, rfl, rfl, (exec_next hexec).2.2⟩
    · rw [step_running hq] at hstep
      cases hstep
      exact ⟨s, k, hq, rfl, rfl, rfl, rfl⟩
  have ho : Outside u := fun j m hj => by
    obtain ⟨rfl, _⟩ := Seq.running.inj (hq.symm.trans hj)
    exact scopeHandler_eq_none hi
  have hdefers := runOp_defers (programOf s.cfg i) ho
  refine ⟨fun hs => hdefers.pending (hcancel.trans hs), fun used hused hhandler hraised => ?_⟩
  obtain ⟨used', hused', hpending⟩ := hdefers.raised
  obtain rfl : used' = used := List.append_cancel_right (hused'.symm.trans (henv.trans hused))
  exact hpending (by rw [ho.inHandler hq, hreq]; exact hhandler) hraised

end Sys2Proof.Machine
end

section
/-! The timeouts of the step waits (R147, R182): a wait whose reads all fail ends with its fault, and in `AUTOSTEP` the scoped
exit disarms. -/

namespace Sys2Proof.Machine

/-! ### A step wait that runs out -/

/-- A step wait begins with `POLL_LIMIT` at `n + 1`, and the script has an idle boundary for each of its reads. -/
structure RunsOut (n : Nat) (s : State) : Prop where
  stepping : Stepping s
  polls : s.polls = 0
  limit : s.cfg.pollLimit = some (n + 1)
  idle : IdleFor (n + 1) s
  left : n < s.env.length

section
variable {prog : List ProgLine} {i : Instr} {k n : Nat} {l : ProgLine} {p : Prim} {e : Event} {ready : State → Bool}
  {w : Wait} {s : State} {pos : Pos}

/-- WHERE `POLL_LIMIT` READS FAIL the wait times out after the last of them (R98). -/
theorem RunsOut.exists_timedOut (h : RunsOut n s) (hl : PollLine l p ready w none) (hk : prog[k]? = some l)
    (hp : ReadsM1 p) (hscope : scopeHandler i = none ∨ s.cancel = false) (hq : s.seq = .running i k)
    (hfails : ∀ m u, Failed p e m s u → IdleFor 1 u → ready (boundary u).1 = false ∧ eventOf p (boundary u).1 = e) :
    ∃ u v, Reaches prog n s u ∧ u.seq = .running i k ∧ tick prog u = raiseFault (.timeout w) v ∧
      Failed p e (n + 1) s v := by
  obtain ⟨u, hreach, hu⟩ := reaches_failedReads hl hk hp hscope hq (h.idle.mono (Nat.le_succ n)) h.left
    (fun m hm => by rw [h.limit] at hm; cases hm; rw [h.polls]; omega) hfails
  have hidle1 : IdleFor 1 u := IdleFor.drop h.idle hu.env
  obtain ⟨hready, hevent⟩ := hfails n u hu hidle1
  have hq' := hu.seq.trans hq
  refine ⟨u, failedSample p u, hreach, hq', ?_, hu.succ hp hidle1 hevent⟩
  rw [tick_poll_timeOut hl hq' hk
    (untaken_of_waited (hscope.imp_right fun hc => hu.waited.cancel.trans hc) hq' (IdleFor.waited (n := 0) hidle1))
    (by rw [IdleFor.boundary (n := 0) hidle1]) hready (by rw [hu.waited.records.flags.1]; exact h.limit)
    (by rw [hu.polls, h.polls]; omega)]
  exact (timeOut_polls w none (perform p (boundary u).1) _).symm

/-- The latch stays clear while nothing but the latch is read. -/
theorem Failed.flag_fails {m : Nat} {u : State} (hu : Failed (.iocFlag .m1) (.flag .m1 false) m s u)
    (hclear : flagLatched s .m1 = false) (hidle : IdleFor 1 u) :
    flagLatched (boundary u).1 .m1 = false ∧ eventOf (.iocFlag .m1) (boundary u).1 = .flag .m1 false := by
  have hunset : flagLatched (boundary u).1 .m1 = false := by
    rw [IdleFor.boundary (n := 0) hidle]
    exact hu.unlatched hclear
  exact ⟨hunset, by rw [eventOf, hunset]⟩

/-- M1 stays asserted while nothing happens. -/
theorem Failed.level_fails {m : Nat} {u : State} (hu : Failed (.sample .m1) (.sampleSig .m1 true) m s u)
    (hs : Stepping s) (hm1 : s.target.m1 = true) (hidle : IdleFor 1 u) :
    senses .m1 false (boundary u).1 = false ∧ eventOf (.sample .m1) (boundary u).1 = .sampleSig .m1 true := by
  have hsensed : sensed (boundary u).1 .m1 = true := by
    rw [((hs.waited hu.waited).waited (IdleFor.waited (n := 0) hidle)).senses_m1, IdleFor.boundary (n := 0) hidle]
    exact hu.m1.trans hm1
  exact ⟨by rw [senses, hsensed]; rfl, by rw [eventOf, hsensed]⟩

/-! ### The fault -/

/-- After `n` ticks the tick at line `k` of `i` raises the timeout in `v`, with `n + 1` boundaries used since `s`. -/
structure TimedOut (prog : List ProgLine) (i : Instr) (k n : Nat) (w : Wait) (evs : List Event) (s v : State) : Prop where
  reaches : ∃ u, Reaches prog n s u ∧ u.seq = .running i k ∧ tick prog u = raiseFault (.timeout w) v
  seq : v.seq = .running i k
  waited : Waited evs s v
  env : v.env = s.env.drop (n + 1)

/-- The wait for the latch runs out. -/
theorem RunsOut.exists_flagTimedOut (h : RunsOut n s) (hclear : flagLatched s .m1 = false)
    (hk : prog[k]? = some ⟨pos, .pollFlag, none⟩) (hscope : scopeHandler i = none ∨ s.cancel = false)
    (hq : s.seq = .running i k) :
    ∃ v, TimedOut prog i k n .flagWait (List.replicate (n + 1) (.flag .m1 false)) s v := by
  obtain ⟨u, v, hreach, hqu, htick, hv⟩ := h.exists_timedOut (pollLine_flag pos) hk (.inr rfl) hscope hq
    fun _ _ hu => hu.flag_fails hclear
  exact ⟨v, ⟨u, hreach, hqu, htick⟩, hv.seq.trans hq, hv.waited, hv.env⟩

/-- The wait for M1 runs out. -/
theorem RunsOut.exists_levelTimedOut (h : RunsOut n s) (hm1 : s.target.m1 = true)
    (hk : prog[k]? = some ⟨pos, .poll .m1 false .levelWait none, none⟩)
    (hscope : scopeHandler i = none ∨ s.cancel = false) (hq : s.seq = .running i k) :
    ∃ v, TimedOut prog i k n .levelWait (List.replicate (n + 1) (.sampleSig .m1 true)) s v := by
  obtain ⟨u, v, hreach, hqu, htick, hv⟩ := h.exists_timedOut (pollLine_poll pos .m1 false .levelWait none) hk (.inl rfl)
    hscope hq fun _ _ hu => hu.level_fails h.stepping hm1
  exact ⟨v, ⟨u, hreach, hqu, htick⟩, hv.seq.trans hq, hv.waited, hv.env⟩

/-- The wait for M1 runs out after the latch was found set (R145). -/
theorem exists_levelTimedOut_latched {pos' : Pos} (hs : Stepping s) (hpolls : s.polls = 0)
    (hlimit : s.cfg.pollLimit = some (n + 1)) (hidle : IdleFor (n + 2) s) (hleft : n + 1 < s.env.length)
    (hset : flagLatched s .m1 = true) (hm1 : s.target.m1 = true) (hflag : prog[k]? = some ⟨pos, .pollFlag, none⟩)
    (hlevel : prog[k + 1]? = some ⟨pos', .poll .m1 false .levelWait none, none⟩)
    (hscope : scopeHandler i = none ∨ s.cancel = false) (hq : s.seq = .running i k) :
    ∃ v, TimedOut prog i (k + 1) (n + 1) .levelWait (.flag .m1 true :: List.replicate (n + 1) (.sampleSig .m1 true)) s v := by
  have hcompletes : FlagCompletes [] 0 true s.target.cpu s :=
    ⟨hs, hpolls, fun m hm => by rw [hlimit] at hm; cases hm; omega,
      .inr ⟨hset, rfl, hm1.symm, rfl, hidle.mono (by omega)⟩⟩
  obtain ⟨u, hu, hm1u, _⟩ := hcompletes.exists_done hflag hscope hq
  have hout : RunsOut n u := by
    refine ⟨hs.waited hu.waited, hu.polls, by rw [hu.waited.records.flags.1]; exact hlimit, ?_, ?_⟩
    · exact IdleFor.drop (n := 1) (by rwa [Nat.add_comm 1]) hu.env
    · rw [hu.env, List.length_drop]
      omega
  obtain ⟨v, ⟨x, hreach, hqx, htick⟩, hqv, hv, henv⟩ :=
    hout.exists_levelTimedOut hm1u hlevel (hscope.imp_right fun hc => hu.waited.cancel.trans hc) hu.seq
  refine ⟨v, ⟨x, ?_, hqx, htick⟩, hqv, hu.waited.trans hv, ?_⟩
  · rw [Nat.add_comm n]
    exact hu.reaches.trans hreach
  · rw [henv, hu.env, List.drop_drop]
    congr 1
    omega

/-! ### What follows the fault -/

variable {evs : List Event} {v : State}

/-- A bare wait ends with the fault and does no cleanup (R182). -/
theorem TimedOut.exec_bare (h : TimedOut (programOf s.cfg i) i k n w evs (beginOp i s) v) (hscope : scopeHandler i = none)
    (hwf : i.WellFormed) (hidle : s.seq = .idle) (hallowed : allowed s i = true) (hn : n ≤ s.env.length) :
    exec i s = .next (raiseFault (.timeout w) v) ∧ (raiseFault (.timeout w) v).seq = .idle := by
  obtain ⟨u, hreach, hqu, htick⟩ := h.reaches
  obtain ⟨hends, _⟩ := raiseFault_ends hscope h.seq (.timeout w)
  exact ⟨exec_of_reaches hwf hidle hallowed (hreach.trans (.ended hqu htick hends)) (by omega) hends, hends⟩

/-- In `AUTOSTEP` the scoped exit disarms (R147). -/
theorem TimedOut.exec_autostep {r : Quantity}
    (h : TimedOut (programOf s.cfg (.autostep r)) (.autostep r) k n w evs (atFlagPoll r s) v) (hk : k < 5)
    (hidle : s.seq = .idle) (harm : s.arm = .armed) (hr : 0 < r) (hsound : Sound s) (hn : n ≤ s.env.length) :
    exec (.autostep r) s = .next (afterDisarm 5 (raiseFault (.timeout w) v)) := by
  obtain ⟨u, hreach, hqu, htick⟩ := h.reaches
  have hqv : (raiseFault (.timeout w) v).seq = .running (.autostep r) 5 := by
    rw [raiseFault_seq_running h.seq]
    exact if_pos hk
  have hsoundv : Sound (raiseFault (.timeout w) v) := sound_of_drop hsound h.waited.records.flags.1 h.env
  have hhandler := (disarmsAt_autostep s.cfg r).reaches hqv (boundary_sound hsoundv).1
  refine exec_of_reaches (Rat.num_pos.mpr hr) hidle rfl
    ((((reaches_flagPoll harm).trans hreach).trans (.next hqu htick hqv hk)).trans hhandler) ?_ rfl
  show 2 + n + 1 + 3 ≤ 7 + 1 + s.env.length
  omega

/-- What the scoped exit leaves after the fault. -/
theorem TimedOut.disarmed {r : Quantity}
    (h : TimedOut prog (.autostep r) k n w evs (atFlagPoll r s) v) (hmode : s.clockMode = .singleStep) :
    (afterDisarm 5 (raiseFault (.timeout w) v)).fault = some (.timeout w) ∧
      (afterDisarm 5 (raiseFault (.timeout w) v)).clockMode = .hardwareFree ∧
      (afterDisarm 5 (raiseFault (.timeout w) v)).trace = s.trace ++ evs ++ [.ioc .m1 .en false] := by
  obtain ⟨_, _, hmodev, _⟩ := h.waited.records.flags
  obtain ⟨_, _, hfault, _⟩ := (afterDisarm_frame 5 (raiseFault (.timeout w) v)).records
  refine ⟨hfault, ?_, ?_⟩
  · rw [afterDisarm_clockMode]
    exact if_pos (hmodev.trans hmode)
  · rw [afterDisarm_trace, raiseFault_trace, h.waited.trace]
    rfl

end

/-! ### The registers of the change interrupt while the latch is read -/

/-- `STEP_WAIT` reads the clear latch, or has ended, and the change interrupt's registers are those of `s`. -/
structure ReadsClear (s u : State) : Prop where
  quiet : Quiet u
  clear : flagLatched u .m1 = false
  ioc : u.ioc = s.ioc
  seq : u.seq = .idle ∨ u.seq = .running .stepWait 0

theorem Defers.quiet {s t : State} (h : Defers s t) (hs : Quiet s) : Quiet t := by
  obtain ⟨used, henv, _⟩ := h.raised
  exact fun l hl => hs l (by rw [henv]; exact List.mem_append_right _ hl)

theorem ReadsClear.afterTick {s u : State} (h : ReadsClear s u) (c : Params) {i : Instr} {k : Nat} (hq : u.seq = .running i k) :
    ReadsClear s (tick (programOf c .stepWait) u) := by
  obtain ⟨rfl, rfl⟩ := Seq.running.inj (hq.symm.trans (h.seq.resolve_left (by rw [hq]; exact nofun)))
  obtain ⟨hboundary, _⟩ := boundary_quiet h.quiet
  obtain ⟨b, hb⟩ : ∃ b, b = perform (.iocFlag .m1) (boundary u).1 := ⟨_, rfl⟩
  have hioc : b.ioc = u.ioc := by rw [hb, hboundary]; rfl
  have hqb : b.seq = .running .stepWait 0 := by
    rw [hb, (perform_kept _ _).seq, (boundary_kept u).seq, hq]
  have hclear : flagLatched (boundary u).1 .m1 = false := by rw [hboundary]; exact h.clear
  have htick : tick (programOf c .stepWait) u = pollFailed .flagWait none b := by
    rw [tick_poll (prog := programOf c .stepWait) (pollLine_flag ⟨.stepWait, 0, 1⟩) hq rfl (untaken_of_scopeless rfl hq)
      (by rw [hboundary]), if_neg (by rw [hclear]; exact Bool.false_ne_true), hb]
  have hcontrol := pollFailed_control .flagWait none b
  have hquiet := (tick_defers (programOf c .stepWait) hq fun j m hj => by
    obtain ⟨rfl, _⟩ := Seq.running.inj (hq.symm.trans hj)
    rfl).quiet h.quiet
  rw [htick] at hquiet ⊢
  have hkept : (pollFailed .flagWait none b).ioc = u.ioc := hcontrol.ioc.trans hioc
  have hcfg : b.cfg = u.cfg := by rw [hb, (perform_kept _ _).cfg, (boundary_kept u).cfg]
  refine ⟨hquiet, (flagLatched_congr (hcontrol.cfg.trans hcfg) hkept).trans h.clear, hkept.trans h.ioc, ?_⟩
  exact (pollFailed_ends_or rfl hqb .flagWait).imp And.left fun ⟨hseq, _⟩ => hseq.trans hqb

/-- A bare `STEP_WAIT` that finds the latch clear all the time leaves the change interrupt's registers as they are. -/
theorem execStepWait_ioc {s t : State} (h : exec .stepWait s = .next t) (hquiet : Quiet s)
    (hclear : flagLatched s .m1 = false) : t.ioc = s.ioc := by
  obtain ⟨_, _, rfl⟩ := exec_next h
  exact (runProg_induct (P := ReadsClear s) (fun _ _ _ hq hu => hu.afterTick s.cfg hq) _ (s := beginOp .stepWait s)
    ⟨hquiet, hclear, rfl, .inr rfl⟩).ioc

/-! ### The operations -/

section
variable {s : State} {n : Nat}

theorem Good.exists_pollLimit {l : Nat} (hs : Good s) (hl : s.cfg.pollLimit = some l) : ∃ n, l = n + 1 := by
  obtain ⟨_, _, hpos, _⟩ := hs.params
  rw [hl] at hpos
  exact Nat.exists_eq_succ_of_ne_zero fun e => hpos (by rw [e])

variable (hgood : Good s) (hidle : s.seq = .idle) (harm : s.arm = .armed) (hquiet : Quiet s)
  (hlimit : s.cfg.pollLimit = some (n + 1))
include hgood hidle harm hquiet hlimit

/-- A wait that begins here, or after a change of the sequencer alone. -/
theorem Good.runsOut {x : State} (hleft : n < s.env.length) (hx : SameHardware s x) (hpolls : x.polls = 0)
    (henv : x.env = s.env) : RunsOut n x where
  stepping := (hgood.stepping hidle harm).congr hx.cfg hx.dir hx.out (congrArg Ioc.en hx.ioc) (congrArg Ioc.cmp hx.ioc)
  polls := hpolls
  limit := by rw [hx.cfg]; exact hlimit
  idle := by
    rw [IdleFor, henv]
    exact hquiet.idleFor _
  left := by rw [henv]; exact hleft

theorem stepWait_flagTimesOut (hclear : flagLatched s .m1 = false) (hleft : n + 1 ≤ s.env.length) :
    ∃ t, exec .stepWait s = .next t ∧ t.seq = .idle ∧ t.fault = some (.timeout .flagWait) ∧ t.arm = .armed ∧
      t.ioc = s.ioc ∧ t.trace = s.trace ++ List.replicate (n + 1) (Event.flag .m1 false) := by
  have hout := hgood.runsOut hidle harm hquiet hlimit (x := beginOp .stepWait s) hleft ⟨rfl, rfl, rfl, rfl, rfl⟩ rfl rfl
  obtain ⟨v, hv⟩ := hout.exists_flagTimedOut (prog := programOf s.cfg .stepWait) (i := .stepWait) (k := 0) hclear rfl
    (.inl rfl) rfl
  obtain ⟨hexec, hends⟩ := hv.exec_bare rfl trivial hidle ((isArmed_iff s).mpr harm) (by omega)
  obtain ⟨_, _, _, harmv, _⟩ := hv.waited.records.flags
  exact ⟨_, hexec, hends, rfl, harmv.trans harm, execStepWait_ioc hexec hquiet hclear, hv.waited.trace⟩

theorem m1ReleaseWait_levelTimesOut (hm1 : s.target.m1 = true) (hleft : n + 1 ≤ s.env.length) :
    ∃ t, exec .m1ReleaseWait s = .next t ∧ t.seq = .idle ∧ t.fault = some (.timeout .levelWait) ∧ t.arm = .armed ∧
      t.clockMode = .singleStep ∧ IocSetupKept s t ∧
      t.trace = s.trace ++ List.replicate (n + 1) (Event.sampleSig .m1 true) := by
  have hout := hgood.runsOut hidle harm hquiet hlimit (x := beginOp .m1ReleaseWait s) hleft ⟨rfl, rfl, rfl, rfl, rfl⟩ rfl
    rfl
  obtain ⟨v, hv⟩ := hout.exists_levelTimedOut (prog := programOf s.cfg .m1ReleaseWait) (i := .m1ReleaseWait) (k := 0)
    hm1 rfl (.inl rfl) rfl
  obtain ⟨hexec, hends⟩ := hv.exec_bare rfl trivial hidle ((isArmed_iff s).mpr harm) (by omega)
  obtain ⟨_, _, hmodev, harmv, _⟩ := hv.waited.records.flags
  exact ⟨_, hexec, hends, rfl, harmv.trans harm, hmodev.trans (hgood.arming.1.mp harm), hv.waited.setup, hv.waited.trace⟩

theorem stepWait_levelTimesOut (hm1 : s.target.m1 = true) (hset : flagLatched s .m1 = true)
    (hleft : n + 1 < s.env.length) :
    ∃ t, exec .stepWait s = .next t ∧ t.seq = .idle ∧ t.fault = some (.timeout .levelWait) ∧ t.arm = .armed ∧
      t.clockMode = .singleStep ∧ IocSetupKept s t ∧
      t.trace = s.trace ++ [Event.flag .m1 true] ++ List.replicate (n + 1) (Event.sampleSig .m1 true) := by
  have hstepping : Stepping (beginOp .stepWait s) := (hgood.stepping hidle harm).congr rfl rfl rfl rfl rfl
  obtain ⟨v, hv⟩ := exists_levelTimedOut_latched (prog := programOf s.cfg .stepWait) (i := .stepWait) (k := 0) hstepping
    rfl hlimit (Quiet.idleFor (s := beginOp .stepWait s) hquiet _) hleft hset hm1 rfl rfl (.inl rfl) rfl
  obtain ⟨hexec, hends⟩ := hv.exec_bare rfl trivial hidle ((isArmed_iff s).mpr harm) (by omega)
  obtain ⟨_, _, hmodev, harmv, _⟩ := hv.waited.records.flags
  refine ⟨_, hexec, hends, rfl, harmv.trans harm, hmodev.trans (hgood.arming.1.mp harm), hv.waited.setup, ?_⟩
  rw [raiseFault_trace, hv.waited.trace, beginOp_trace, List.append_assoc]
  rfl

omit hlimit in
/-- An `AUTOSTEP` whose wait runs out is disarmed (R147). -/
theorem autostep_timesOut {r : Quantity} {k m : Nat} {w : Wait} {evs : List Event} {v : State}
    (hv : TimedOut (programOf s.cfg (.autostep r)) (.autostep r) k m w evs (atFlagPoll r s) v) (hk : k < 5) (hr : 0 < r)
    (hm : m ≤ s.env.length) :
    ∃ t, exec (.autostep r) s = .next t ∧ t.seq = .idle ∧ t.fault = some (.timeout w) ∧ t.arm = .disarmed ∧
      t.clockMode = .hardwareFree ∧ t.trace = s.trace ++ evs ++ [Event.ioc .m1 .en false] := by
  have hsound : Sound s := fun l hl => by rw [hquiet l hl]; rfl
  obtain ⟨hfault, hmode, htrace⟩ := hv.disarmed (hgood.arming.1.mp harm)
  exact ⟨_, hv.exec_autostep hk hidle harm hr hsound hm, rfl, hfault, rfl, hmode, htrace⟩

end

/-- Settles O43: every read of the wait fails, and what follows its fault is nothing, or the scoped exit of `AUTOSTEP`. -/
theorem stepTimeouts : Obligations.StepTimeouts := by
  intro s r l hgood hidle harm hquiet hlimit
  obtain ⟨n, rfl⟩ := hgood.exists_pollLimit hlimit
  have hpoll : IdleFor (n + 2) (atFlagPoll r s) := Quiet.idleFor (s := atFlagPoll r s) hquiet _
  refine ⟨fun hclear hleft => ⟨stepWait_flagTimesOut hgood hidle harm hquiet hlimit hclear hleft, fun hr hcancel => ?_⟩,
    m1ReleaseWait_levelTimesOut hgood hidle harm hquiet hlimit,
    fun hm1 hset hleft => ⟨stepWait_levelTimesOut hgood hidle harm hquiet hlimit hm1 hset hleft, fun hr hcancel => ?_⟩⟩
  · have hout := hgood.runsOut hidle harm hquiet hlimit (x := atFlagPoll r s) hleft ⟨rfl, rfl, rfl, rfl, rfl⟩ rfl rfl
    obtain ⟨v, hv⟩ := hout.exists_flagTimedOut (prog := programOf s.cfg (.autostep r)) (i := .autostep r) (k := 2) hclear
      rfl (.inr hcancel) rfl
    exact autostep_timesOut hgood hidle harm hquiet hv (by decide) hr (by omega)
  · have hstepping : Stepping (atFlagPoll r s) := (hgood.stepping hidle harm).congr rfl rfl rfl rfl rfl
    obtain ⟨v, hv⟩ := exists_levelTimedOut_latched (prog := programOf s.cfg (.autostep r)) (i := .autostep r) (k := 2)
      hstepping rfl hlimit hpoll hleft hset hm1 rfl rfl (.inr hcancel) rfl
    have hends := autostep_timesOut hgood hidle harm hquiet hv (by decide) hr (by omega)
    simpa only [List.append_assoc, List.cons_append, List.nil_append] using hends

end Sys2Proof.Machine
end

section
/-! The launch window (R226): what the devices of the board do when `TAKE_BUS` drives the strobes as their latches stand, and
that they do nothing when it de-asserts them. -/

namespace Sys2Proof.Machine

/-! ### The devices while Released -/

/-- The address that the latches hold, as the bus will show it (R17, R80). -/
def latchedAddr (r : Ports) : Addr := rev8 r.addrHi ++ rev8 r.addrLo

theorem latchedAddr_withSignal {c : Params} (hc : c.pins.WellFormed) (r : Ports) (g : Signal) (active : Bool) :
    latchedAddr (withSignal c r g active) = latchedAddr r := by
  have hhi := get_busPort_setPin hc (p := .addrHi) (.inl rfl) r g (levelOf c g active)
  have hlo := get_busPort_setPin hc (p := .addrLo) (.inr (.inl rfl)) r g (levelOf c g active)
  exact congrArg₂ (fun x y => rev8 x ++ rev8 y) hhi hlo

/-- Between the targets `g` and `g'` only the memory cell at address `a` may have changed, and no cell where `shut` holds; the
IO devices have seen the accesses `seen`, at most two, all of them at `a` (R226). -/
structure Launched (c : Params) (a : Addr) (shut : Prop) (seen : List IoAccess) (g g' : Target) : Prop where
  value : ∀ n, bankLookup c.bankMap g.bank a ≠ some (n, true) → g'.mem.value n = g.mem.value n
  mem : shut → g'.mem = g.mem
  io : g'.io = g.io ++ seen
  few : seen.length ≤ 2
  addressed : ∀ x ∈ seen, ∃ v, x = .read a ∨ x = .write a v

/-- What leaves the target's stores alone before and after a launch window is no part of it. -/
theorem Launched.widen {c : Params} {a : Addr} {shut : Prop} {seen : List IoAccess} {s s' t t' : State}
    (h : Launched c a shut seen s'.target t.target) (hbefore : StoresKept s s') (hafter : StoresKept t t') :
    Launched c a shut seen s.target t'.target := by
  obtain ⟨hmem, hio, hbank⟩ := hbefore
  obtain ⟨hmem', hio', _⟩ := hafter
  refine ⟨fun n hn => ?_, fun hshut => ?_, ?_, h.few, h.addressed⟩
  · rw [hmem', h.value n (by rwa [hbank]), hmem]
  · rw [hmem', h.mem hshut, hmem]
  · rw [hio', h.io, hio]

/-- The controller shows address `a` before it owns the bus, and the target is off it: `PhSetup` of R22 after ADDR is driven. -/
structure Launching (a : Addr) (s : State) : Prop where
  own : s.own = .released
  bus : s.target.ownsBus = false
  addr : addrDriven s
  shown : latchedAddr s.out = a

theorem holdWrite_released {s : State} (hown : s.own = .released) : holdWrite s = s := by
  simp [holdWrite, hown]

section
variable {a : Addr} {s t : State}

theorem Launching.busAddr (h : Launching a s) : busAddr s = a := (busAddr_driven h.addr h.bus).trans h.shown

theorem Launching.stores (h : Launching a s) (hst : StoresOnly s t) : Launching a t := by
  rw [hst.eq]
  exact ⟨h.own, h.bus, h.addr, h.shown⟩

/-- The memory device may take a byte at the address shown, in its window (R47). -/
theorem Launching.memWrite (h : Launching a s) (old : State) : StoresOnly s (memWriteReact old s) ∧
    ((memWriteReact old s).target = s.target ∨
      memWriteWindow s = true ∧ ∃ d, (memWriteReact old s).target = stored s.cfg a d s.target) := by
  unfold memWriteReact
  split
  · next hacts =>
    have hopen : memWriteWindow s = true := (Bool.and_eq_true_iff.mp hacts).1
    refine ⟨storeByte_stores _ _ _ _, .inr ⟨hopen, portIn s .dataLo, ?_⟩⟩
    rw [← storeByte_target, ← h.busAddr]
    rfl
  · exact ⟨.refl s, .inl rfl⟩

/-- The IO devices may see one write, at the address shown (R49). -/
theorem Launching.ioWrite (h : Launching a s) (old : State) : StoresOnly s (ioWriteReact old s) ∧
    (ioWriteReact old s).target.mem = s.target.mem ∧
      ((ioWriteReact old s).target.io = s.target.io ∨
        ∃ v, (ioWriteReact old s).target.io = s.target.io ++ [.write a v]) := by
  obtain ⟨u, hu⟩ : ∃ u, u = { ioAccess (.write (Machine.busAddr s) (portIn s .dataLo)) s with draws := s.draws + 3 } :=
    ⟨_, rfl⟩
  have hstores : StoresOnly s u := by rw [hu]; exact ioAccess_stores _ s _
  unfold ioWriteReact
  split
  · rw [← hu, holdWrite_released (h.stores hstores).own]
    refine ⟨hstores, ?_, .inr ⟨portIn s .dataLo, ?_⟩⟩ <;> rw [hu]
    · rfl
    · rw [h.busAddr]
      rfl
  · exact ⟨.refl s, rfl, .inl rfl⟩

/-- The IO devices may see one read, at the address shown (R49). -/
theorem Launching.ioRead (h : Launching a s) (old : State) : (ioReadReact old s).target.mem = s.target.mem ∧
    ((ioReadReact old s).target.io = s.target.io ∨ (ioReadReact old s).target.io = s.target.io ++ [.read a]) := by
  unfold ioReadReact
  split
  · rw [h.busAddr]
    exact ⟨rfl, .inr rfl⟩
  · exact ⟨rfl, .inl rfl⟩

/-- ALL THAT THE DEVICES CAN DO at a register write while Released (R226): they act one after another, at one address. -/
theorem Launching.devices (h : Launching a s) (old : State) : ∃ seen,
    Launched s.cfg a (memWriteWindow s = false) seen s.target
      (ioReadReact old (ioWriteReact old (memWriteReact old s))).target := by
  obtain ⟨x, hx⟩ : ∃ x, x = memWriteReact old s := ⟨_, rfl⟩
  obtain ⟨y, hy⟩ : ∃ y, y = ioWriteReact old x := ⟨_, rfl⟩
  obtain ⟨hstores, hmem⟩ := h.memWrite old
  rw [← hx] at hstores hmem ⊢
  obtain ⟨hstores', hmem', hwrite⟩ := (h.stores hstores).ioWrite old
  rw [← hy] at hstores' hmem' hwrite ⊢
  obtain ⟨hmem'', hread⟩ := ((h.stores hstores).stores hstores').ioRead old
  have hvalue (n : Nat) (hn : bankLookup s.cfg.bankMap s.target.bank a ≠ some (n, true)) :
      x.target.mem.value n = s.target.mem.value n := by
    rcases hmem with e | ⟨_, d, e⟩
    · rw [e]
    · rw [e, stored_value]
      exact if_neg hn
  have hshut (hclosed : memWriteWindow s = false) : x.target.mem = s.target.mem := by
    rcases hmem with e | ⟨hopen, _⟩
    · rw [e]
    · exact absurd hopen (by rw [hclosed]; decide)
  have hio : x.target.io = s.target.io := by
    rcases hmem with e | ⟨_, d, e⟩
    · rw [e]
    · rw [e, stored_eq]
  rw [hio] at hwrite
  have hlaunched (seen : List IoAccess) (hseen : (ioReadReact old y).target.io = s.target.io ++ seen)
      (hfew : seen.length ≤ 2) (haddressed : ∀ z ∈ seen, ∃ v, z = .read a ∨ z = .write a v) :
      Launched s.cfg a (memWriteWindow s = false) seen s.target (ioReadReact old y).target :=
    ⟨fun n hn => by rw [hmem'', hmem', hvalue n hn], fun hclosed => by rw [hmem'', hmem', hshut hclosed], hseen, hfew,
      haddressed⟩
  rcases hwrite with hwrite | ⟨v, hwrite⟩ <;> rcases hread with hread | hread <;> rw [hwrite] at hread
  · exact ⟨[], hlaunched _ (by rw [hread, List.append_nil]) (by simp) (by simp)⟩
  · exact ⟨[.read a], hlaunched _ hread (by simp) (by simp)⟩
  · exact ⟨[.write a v], hlaunched _ hread (by simp) (by simp)⟩
  · exact ⟨[.write a v, .read a], hlaunched _ (by rw [hread, List.append_assoc]; rfl) (by simp) (by simp)⟩

/-! ### The strobes are driven -/

/-- THE LAUNCH WINDOW: with the strobes driven as their latches stand, the devices see what these ask for (R226). -/
theorem exists_launched_driveStrobes (hc : s.cfg.pins.WellFormed) (hown : s.own = .released)
    (hbus : s.target.ownsBus = false) (haddr : addrDriven (perform (.drive .strobes) s)) : ∃ seen,
    Launched s.cfg (latchedAddr s.out) (latchAt s .mreq false ∨ latchAt s .wr false) seen s.target
      (perform (.drive .strobes) s).target := by
  obtain ⟨u, hu⟩ : ∃ u, u = storeWrite (.dirStrobes true) s := ⟨_, rfl⟩
  have hdir : (perform (.drive .strobes) s).dir = u.dir := by rw [hu]; exact applyWrite_dir s (.dirStrobes true)
  have hcfg : (perform (.drive .strobes) s).cfg = u.cfg := by rw [hu]; exact (perform_kept _ s).cfg
  have hlines : SameLines (perform (.drive .strobes) s) u :=
    .of_registers hcfg.symm hdir.symm (by rw [hu]; exact (applyWrite_out s (.dirStrobes true)).symm)
  obtain ⟨hreset, hclken, hclkout⟩ := perform_steady hc (p := .drive .strobes) trivial rfl
  have hreact := react_devices (old := s) ((hlines.line _).trans hreset) ((hlines.line _).trans hclken)
    (hlines.clkout.trans hclkout)
  have hlaunching : Launching (latchedAddr s.out) u := by
    rw [addrDriven, hdir, hcfg] at haddr
    refine ⟨?_, ?_, haddr, ?_⟩ <;> rw [hu]
    · exact hown
    · exact hbus
    · rfl
  obtain ⟨seen, hseen⟩ := hlaunching.devices s
  have htarget : (perform (.drive .strobes) s).target = (react s u).target := by rw [hu]; rfl
  have hclosed (h : latchAt s .mreq false ∨ latchAt s .wr false) : memWriteWindow u = false := by
    have hlatch {g : Signal} (hg : latchAt s g false) : asserts u g = false :=
      asserts_of_latch (by rw [hu]; exact hg)
    rcases h with hmreq | hwr
    · simp [memWriteWindow, hlatch hmreq]
    · simp [memWriteWindow, hlatch hwr]
  rw [htarget, hreact]
  rw [hu] at hseen hclosed ⊢
  exact ⟨seen, { hseen with mem := fun h => hseen.mem (hclosed h) }⟩

/-! ### The strobes are de-asserted -/

/-- The write that de-asserts a signal asserts no other. -/
theorem asserts_of_deasserting (hc : s.cfg.pins.WellFormed) {g k : Signal}
    (h : asserts (storeWrite (.outPin (s.cfg.pins.pin g) (!assertedLevel s.cfg g)) s) k = true) : asserts s k = true := by
  by_cases hk : k = g
  · subst hk
    have hlatch : latchAt (storeWrite (.outPin (s.cfg.pins.pin k) (!assertedLevel s.cfg k)) s) k false :=
      getPin_setPin_same _ _ _
    rw [asserts_of_latch hlatch] at h
    cases h
  · have hline : line (storeWrite (.outPin (s.cfg.pins.pin g) (!assertedLevel s.cfg g)) s) k = line s k :=
      line_setPin_other hc _ hk
    rwa [asserts, hline] at h

/-- While Released a device acts only when its window opens, and the de-assertion of a strobe opens none (R226). -/
theorem perform_deassert_released (hc : s.cfg.pins.WellFormed) (hown : s.own = .released) {g : Signal} (hg : g ∈ strobes) :
    (perform (.deassert g) s).target = s.target := by
  obtain ⟨u, hu⟩ : ∃ u, u = storeWrite (.outPin (s.cfg.pins.pin g) (!assertedLevel s.cfg g)) s := ⟨_, rfl⟩
  have hback {k : Signal} (h : asserts u k = true) : asserts s k = true := asserts_of_deasserting hc (by rwa [hu] at h)
  have hownu : u.own = .released := by rw [hu]; exact hown
  have hwindow {w : State → Bool} {x y : Signal} (hw : ∀ z, w z = (asserts z x && asserts z y)) :
      acting w s u = false :=
    acting_released hownu fun hopen => by
      rw [hw, Bool.and_eq_true] at hopen ⊢
      exact hopen.imp hback hback
  have hlines : SameLines (perform (.deassert g) s) u :=
    .of_registers (by rw [hu]; exact (perform_kept _ s).cfg.symm) (by rw [hu]; exact (applyWrite_dir ..).symm)
      (by rw [hu]; exact (applyWrite_out ..).symm)
  obtain ⟨hreset, hclken, hclkout⟩ := perform_steady hc (p := .deassert g) trivial (by revert hg; cases g <;> decide)
  have hreact : react s u = u :=
    react_none (hwindow fun _ => rfl) (hwindow fun _ => rfl) (hwindow fun _ => rfl)
      (by rw [asserts, hlines.line, hreset, asserts]) ((hlines.line _).trans hclken) fun _ => hlines.clkout.trans hclkout
  have htarget : (perform (.deassert g) s).target = (react s u).target := by rw [hu]; rfl
  rw [htarget, hreact, hu]
  rfl

end

/-- Lines that de-assert strobes before a target off the bus leave it alone while Released. -/
theorem afterPrims_deassert_calm {gs : List Signal} (hgs : ∀ g ∈ gs, g ∈ strobes) {s : State}
    (hc : s.cfg.pins.WellFormed) (hown : s.own = .released) (hoff : OffBus s) (k : Nat) :
    Calm s (afterPrims k (gs.map .deassert) s) := by
  induction gs generalizing k s with
  | nil => exact .refl s
  | cons g gs ih =>
    have hg := hgs g (List.mem_cons_self ..)
    have hne : Prim.deassert g ≠ .deassert .busreq := by
      rintro ⟨⟩
      revert hg
      decide
    have hb := boundary_offBus hoff
    have hunseen := perform_deassert_released (by rwa [hb.cfg]) (hb.own.trans hown) hg
    have hfirst : Calm s (afterPrim k (.deassert g) s) :=
      Calm.trans ⟨hb.target, hb.ioc⟩ (.of_eq hunseen (perform_ioc_unread (p := .deassert g) rfl rfl _))
    exact hfirst.trans (ih (fun x hx => hgs x (List.mem_cons_of_mem _ hx)) (by rwa [afterPrim_cfg])
      ((afterPrim_records k _ s).flags.2.1.trans hown) (hoff.afterPrim (p := .deassert g) hc trivial hne (by simp) k) (k + 1))

end Sys2Proof.Machine
end

section
/-! The first `TAKE_BUS` (R91 to R94, R213, R226), with any strobe latches: the grant, its set-up with the launch window, and
its bank step. -/

namespace Sys2Proof.Machine

/-! ### Step 3: the launch window -/

theorem takeAt_takeFor (bank : Option Nat) {k : Nat} (hk : k ≤ 8) : takeAt (.running (takeFor bank) k) = some k := by
  cases bank with
  | none => exact if_pos (by omega)
  | some b => exact if_pos hk

/-- Step 3 of `TAKE_BUS` with any strobe latches (R91, R226): driving ADDR opens no window, driving STROBES is the launch
window, and de-asserting the strobes opens none. -/
theorem exists_launched_setup {bank : Option Nat} {s : State} (hs : Good s) (hown : s.own = .released)
    (hq : s.seq = .running (takeFor bank) 2) (hoff : OffBus s) : ∃ seen,
    Launched s.cfg (latchedAddr s.out) (latchAt s .mreq false ∨ latchAt s .wr false) seen s.target
      (afterPrims 2 setupPrims s).target := by
  have hpins := hs.params.1
  obtain ⟨hprims, _⟩ := takeFor_setup s.cfg bank
  have hquiet : StrobesQuiet s := fun g hg => by
    obtain ⟨_, hfloat, _⟩ := hs.taking hown 2 (by rw [hq]; exact takeAt_takeFor bank (by decide))
    exact asserts_eq_false_iff.mpr (.inl (hfloat (by decide) g hg))
  obtain ⟨u, hu⟩ : ∃ u, u = afterPrim 2 (.drive .addr) s := ⟨_, rfl⟩
  have hcalmu : Calm s u := by
    rw [hu]
    exact afterPrim_calm (p := .drive .addr) hpins ⟨trivial, rfl, rfl, rfl⟩ (boundary_offBus hoff)
      (hquiet.afterPrim (p := .drive .addr) hpins trivial rfl 2).shut
  have hcfgu : u.cfg = s.cfg := by rw [hu, afterPrim_cfg]
  have hownu : u.own = .released := by rw [hu]; exact (afterPrim_records _ _ s).flags.2.1.trans hown
  have houtu : u.out = s.out := by rw [hu]; exact afterPrim_out 2 (.drive .addr) s
  have hoffu : OffBus u := by rw [hu]; exact hoff.afterPrim (p := .drive .addr) hpins trivial (by simp) (by simp) 2
  obtain ⟨v, hv⟩ : ∃ v, v = afterPrim 3 (.drive .strobes) u := ⟨_, rfl⟩
  have hownv : v.own = .released := by rw [hv]; exact (afterPrim_records _ _ u).flags.2.1.trans hownu
  have hcfgv : v.cfg = s.cfg := by rw [hv, afterPrim_cfg, hcfgu]
  have hoffv : OffBus v := by
    rw [hv]
    exact hoffu.afterPrim (p := .drive .strobes) (by rwa [hcfgu]) trivial (by simp) (by simp) 3
  have haddrv : addrDriven v := by
    have hpair : v = afterPrims 2 [.drive .addr, .drive .strobes] s := by rw [hv, hu]; rfl
    have hdriven : PrimsAt (programOf s.cfg (takeFor bank)) 2 [.drive .addr, .drive .strobes] :=
      PrimsAt.left (qs := strobes.map .deassert) hprims
    have hgood : Good v := by rw [hpair]; exact (hs.afterPrims hq hdriven).1
    have hqv : v.seq = .running (takeFor bank) 4 := by rw [hpair]; exact afterPrims_seq hq _
    obtain ⟨_, _, _, haddr, _⟩ := hgood.taking hownv 4 (by rw [hqv]; exact takeAt_takeFor bank (by decide))
    exact haddr (by decide)
  have hb := boundary_offBus hoffu
  obtain ⟨seen, hseen⟩ := exists_launched_driveStrobes (s := (boundary u).1) (by rw [hb.cfg, hcfgu]; exact hpins)
    (hb.own.trans hownu) (hb.offBus hoffu).bus (by rw [hv] at haddrv; exact haddrv)
  have hlast := afterPrims_deassert_calm (gs := strobes) (fun _ => id) (by rwa [hcfgv]) hownv hoffv 4
  have hshown : Launched s.cfg (latchedAddr s.out) (latchAt s .mreq false ∨ latchAt s .wr false) seen
      (boundary u).1.target v.target := by
    rw [latchAt, latchAt, hb.cfg, hb.out, hcfgu, houtu] at hseen
    rw [hv]
    exact hseen
  have hbefore : Calm s (boundary u).1 := hcalmu.trans ⟨hb.target, hb.ioc⟩
  refine ⟨seen, ?_⟩
  rw [show afterPrims 2 setupPrims s = afterPrims 4 (strobes.map .deassert) v by rw [hv, hu]; rfl]
  exact hshown.widen hbefore.kept.2 hlast.kept.2

/-- `t` is `s`, in which `TAKE_BUS(bank)` has been granted the bus, after steps 3 and 4; in the launch window the IO devices
saw `seen`. -/
structure LaunchSetUp (bank : Option Nat) (seen : List IoAccess) (s t : State) : Prop where
  reaches : Reaches (programOf s.cfg (takeFor bank)) 7 s t
  seq : t.seq = .running (takeFor bank) 9
  records : RecordsStand (setOwn .acquired s) t
  sound : Sound t
  good : Good t
  offBus : OffBus t
  launched : Launched s.cfg (latchedAddr s.out) (latchAt s .mreq false ∨ latchAt s .wr false) seen s.target t.target

theorem exists_launchSetUp {bank : Option Nat} {s : State} (hs : Good s) (hsound : Sound s) (hown : s.own = .released)
    (hq : s.seq = .running (takeFor bank) 2) (hoff : OffBus s) : ∃ seen t, LaunchSetUp bank seen s t := by
  obtain ⟨hprims, hassign⟩ := takeFor_setup s.cfg bank
  obtain ⟨seen, hlaunched⟩ := exists_launched_setup hs hown hq hoff
  have hoffu := hoff.afterPrims hs.params.1
    (fun p hp => ⟨(setupPrims_unrequesting p hp).programmed, (setupPrims_unrequesting p hp).kept⟩) 2
  have hrecords := afterPrims_records 2 setupPrims s
  have hqu : (afterPrims 2 setupPrims s).seq = .running (takeFor bank) 8 := afterPrims_seq hq setupPrims
  have hgood := (hs.afterPrims hq hprims).1
  have hsoundu := afterPrims_sound hsound 2 setupPrims
  have hreach : Reaches _ 6 s _ := reaches_prims (ps := setupPrims) (takeFor_scope bank) hq hprims hsound
  obtain ⟨u, hu⟩ : ∃ u, u = afterPrims 2 setupPrims s := ⟨_, rfl⟩
  rw [← hu] at hlaunched hoffu hrecords hqu hgood hsoundu hreach
  have hassign' : (programOf u.cfg (takeFor bank))[8]? = some (ln .takeBus 4 0 (.own .acquired)) := by
    rw [hrecords.flags.1]
    exact hassign
  exact ⟨seen, afterOwn 8 .acquired u, {
    reaches := hreach.trans (reaches_own hqu hassign)
    seq := afterOwn_seq hqu .acquired
    records := (hrecords.setOwn .acquired).trans (afterOwn_records 8 .acquired u)
    sound := hsoundu
    good := (hgood.afterOwn hqu hassign').1
    offBus := ⟨hoffu.bus, hoffu.m1, hoffu.busreq, hoffu.reset⟩
    launched := hlaunched }⟩

/-! ### Step 5 -/

/-- `TAKE_BUS(bank)`, which stood before step 5 in `s`, has returned in `t` (R94). -/
structure BankStep (bank : Option Nat) (s t : State) : Prop where
  reaches : Reaches (programOf s.cfg (takeFor bank)) (1 + (bankPrims s.cfg bank).length) s t
  seq : t.seq = .idle
  polls : t.polls = 0
  records : RecordsStand s t
  calm : Calm { s with target := banked s.cfg bank s.target } t

theorem exists_bankStep {bank : Option Nat} {s : State} (hs : Good s) (hsound : Sound s) (hown : s.own = .acquired)
    (hq : s.seq = .running (takeFor bank) 9) (hoff : OffBus s) : ∃ t, BankStep bank s t := by
  obtain ⟨hprims, hret, _⟩ := takeFor_bank s.cfg bank
  have hlatches : strobeLatchesInactive s := fun g hg => by
    have hinactive : activeStrobe (.running (takeFor bank) 9) g = false := by
      cases bank with
      | none => rfl
      | some b => simp [takeFor, activeStrobe, writeAt]
    have hplaced := hs.strobesAsPlaced hown g hg
    rwa [hq, hinactive] at hplaced
  have hqv := afterPrims_seq hq (bankPrims s.cfg bank)
  have hreach := reaches_prims (takeFor_scope bank) hq hprims hsound
  have hreturn : Reaches (programOf s.cfg (takeFor bank)) 1 _ (opReturn _) := .ended hqv (tick_line hqv hret) rfl
  have hrecords := afterPrims_records 9 (bankPrims s.cfg bank) s
  have hcalm := afterPrims_bank hs hown hq hoff hlatches
  refine ⟨opReturn (afterPrims 9 (bankPrims s.cfg bank) s), ?_, rfl, rfl,
    ⟨hrecords.flags, hrecords.raised, hrecords.result⟩, ⟨hcalm.target, hcalm.ioc⟩⟩
  rw [Nat.add_comm]
  exact hreach.trans hreturn

/-! ### Steps 1 and 2 -/

/-- `TAKE_BUS(bank)`, issued in `s`, has been granted the bus in `t` after `n` failed samples. -/
structure Granted (bank : Option Nat) (n : Nat) (s t : State) : Prop where
  reaches : Reaches (programOf s.cfg (takeFor bank)) (1 + n + 1) (beginOp (takeFor bank) s) t
  seq : t.seq = .running (takeFor bank) 2
  records : RecordsStand (beginOp (takeFor bank) s) t
  sound : Sound t
  out : t.out = withSignal s.cfg s.out .busreq true
  stores : StoresKept s t
  good : Good t
  offBus : OffBus t

/-- The sample that reads de-asserted ends the poll (R91, R98). -/
theorem granted_of_answer {bank : Option Nat} {n : Nat} {s w u : State} (hsound : Sound s) (hw : Requested bank s w)
    (hreach : Reaches (programOf s.cfg (takeFor bank)) n w u) (hu : Sampled n w u) (hok : (boundary u).2 = .ok)
    (hgrant : (boundary u).1.target.ownsBus = false) (hstores : StoresKept s (boundary u).1) :
    Granted bank n s (afterPrim 1 (.sample .busack) u) := by
  obtain ⟨_, hpoll, _⟩ := takeFor_lines s.cfg bank
  have hcfg : u.cfg = s.cfg := hu.records.flags.1.trans hw.records.flags.1
  have hq : u.seq = .running (takeFor bank) 1 := hu.seq.trans hw.seq
  have hready : senses .busack false (boundary u).1 = true := by
    rw [senses, hu.good.1.boundary.1.sensed_busack, hgrant]
    rfl
  have hlast := answered hu.good.1 hgrant 1
  have hgood := (hu.good.1.afterPoll hq (by rw [hcfg]; exact hpoll) fun _ => hgrant).1
  have hqx := afterPrim_seq hq (.sample .busack)
  have hsample := reaches_poll_ready (pollLine_poll _ .busack false .ackWait _) hq hpoll
    (untaken_of_scopeless (takeFor_scope bank) hq) hok hready
  have hrecords := (hw.records.trans hu.records).trans hlast.records
  have hreq : line (afterPrim 1 (.sample .busack) u) .busreq = .asserted :=
    (line_congr (s := w) (hlast.records.flags.1.trans hu.records.flags.1) (hlast.dir.trans hu.dir)
      (hlast.out.trans hu.out) .busreq).trans hw.line
  exact {
    reaches := (hw.reaches.trans hreach).trans hsample
    seq := hqx
    records := hrecords
    sound := sound_of_drop hsound hrecords.flags.1 (n := 1 + (n + 1))
      (by rw [hlast.env, hu.env, hw.env, ← List.drop_one, List.drop_drop, List.drop_drop])
    out := (hlast.out.trans hu.out).trans hw.out
    stores := by rw [StoresKept, hlast.target]; exact hstores
    good := hgood
    offBus := hgood.offBus (by rw [hlast.target]; exact hgrant) (by rw [hreq]; exact nofun)
      (by rw [hqx]; cases bank <;> rfl) }

/-- A target that floats its bus after `n` failed samples has granted it (R45, R91, R227). -/
theorem exists_granted {bank : Option Nat} {n : Nat} {acts : List EnvAct} {rest : List Slot} {s : State} (hgood : Good s)
    (hidle : s.seq = .idle) (hsound : Sound s) (hbus : s.target.ownsBus = true)
    (hacts : s.target.m1 = false ∧ acts = [.grant] ∨ acts = [.m1Deassert, .grant]) (hfree : halted s = true → 0 < n)
    (henv : s.env = List.replicate (n + 1) idleSlot ++ ⟨acts, .ok⟩ :: rest) (hlimit : ∀ l ∈ s.cfg.pollLimit, n < l) :
    ∃ t, Granted bank n s t := by
  obtain ⟨w, hw⟩ := exists_requested (bank := bank) hgood hidle hsound
  have hcalm := hw.calm (.inl (idleFor_of_replicate henv (Nat.le_add_left 1 n)))
  obtain ⟨hcfg, _, _, harm, _⟩ := hw.records.flags
  have henvw : w.env = List.replicate n idleSlot ++ ⟨acts, .ok⟩ :: rest := by
    rw [hw.env, henv, List.replicate_succ]
    rfl
  obtain ⟨_, hpoll, _⟩ := takeFor_lines s.cfg bank
  obtain ⟨u, hreach, hu⟩ := reaches_failed (takeFor_scope bank) hpoll hw.good hw.seq (idleFor_of_replicate henvw le_rfl)
    (by rw [hcalm.target]; exact hbus)
    (fun m hm => by rw [hcfg] at hm; rw [hw.polls, Nat.zero_add]; exact hlimit m hm) (by rw [henvw]; simp)
  have hq : u.seq = .running (takeFor bank) 1 := hu.seq.trans hw.seq
  have htarget : u.target = { s.target with int := u.target.int, clk := u.target.clk, edge := u.target.edge } := by
    rw [hu.target, hcalm.target]
  have hfreeu : halted u = false := hu.free fun h => hfree (by rwa [halted_congr hcfg harm hcalm.ioc] at h)
  have hreq : line u .busreq = .asserted := (line_congr hu.records.flags.1 hu.dir hu.out .busreq).trans hw.line
  have hanswer := boundary_grant (rest := rest) (by rw [hu.env, henvw, List.drop_left' (by simp)])
    (by rw [htarget]; exact hacts) (by rw [htarget]; exact hbus) hreq hfreeu
    (hu.good.1.canRun (by rw [hq]; cases bank <;> rfl) (by rw [hq]; cases bank <;> rfl) hfreeu)
  refine ⟨_, granted_of_answer hsound hw hreach hu (by rw [hanswer]) (by rw [hanswer]) ?_⟩
  rw [StoresKept, hanswer, htarget]
  exact ⟨rfl, rfl, rfl⟩

/-- Up to the grant the address latches and those of the strobes stand, and so do the target's stores. -/
theorem Granted.launched {bank : Option Nat} {n : Nat} {seen : List IoAccess} {s t u : State} (h : Granted bank n s t)
    (hl : Launched t.cfg (latchedAddr t.out) (latchAt t .mreq false ∨ latchAt t .wr false) seen t.target u.target) :
    Launched s.cfg (latchedAddr s.out) (latchAt s .mreq false ∨ latchAt s .wr false) seen s.target u.target := by
  have hcfg : t.cfg = s.cfg := h.records.flags.1
  have hpins : s.cfg.pins.WellFormed := by rw [← hcfg]; exact h.good.params.1
  have hlatch {g : Signal} (hg : g ≠ .busreq) (hs : latchAt s g false) : latchAt t g false := by
    rw [latchAt, hcfg, h.out, withSignal, getPin_setPin_other _ _ (PinMap.WellFormed.pin_ne hpins hg)]
    exact hs
  have hwide := hl.widen h.stores ⟨rfl, rfl, rfl⟩
  rw [hcfg, h.out, latchedAddr_withSignal hpins] at hwide
  exact { hwide with mem := fun hs => hwide.mem (hs.imp (hlatch (by decide)) (hlatch (by decide))) }

/-! ### What the first acquisition may write -/

/-- Settles O28: the launch window is the one line between the grant and the bank step at which the target sees anything. -/
theorem firstAcquisitionGlitch : Obligations.FirstAcquisitionGlitch := by
  intro s bank n acts rest hgood hown hidle hbus hacts hfree hsound henv hlimit hwf
  obtain ⟨x, hx⟩ := exists_granted (bank := bank) hgood hidle hsound hbus hacts hfree henv hlimit
  have hcfgx : x.cfg = s.cfg := hx.records.flags.1
  obtain ⟨seen, u, hu⟩ := exists_launchSetUp hx.good hx.sound (hx.records.flags.2.1.trans hown) hx.seq hx.offBus
  have hcfgu : u.cfg = s.cfg := hu.records.flags.1.trans hcfgx
  obtain ⟨t, ht⟩ := exists_bankStep hu.good hu.sound hu.records.flags.2.1 hu.seq hu.offBus
  have hsetup := hu.reaches
  have hbank := ht.reaches
  rw [hcfgx] at hsetup
  rw [hcfgu] at hbank
  obtain ⟨_, _, hlength⟩ := takeFor_bank s.cfg bank
  have hexec : exec (takeFor bank) s = .next t :=
    exec_of_reaches (takeFor_wellFormed hwf) hidle (takeFor_allowed bank s) ((hx.reaches.trans hsetup).trans hbank)
      (by rw [henv, List.length_append, List.length_replicate]; omega) ht.seq
  have hrecords := ((hx.records.setOwn .acquired).trans hu.records).trans ht.records
  obtain ⟨_, hownt, _, _, hfault, hkilled, _⟩ := hrecords.flags
  have hgoodt : Good t := (hgood.exec hexec (hfault.trans hgood.noFault) (hkilled.trans hgood.alive)).1
  have hlaunched := hx.launched hu.launched
  obtain ⟨_, hmem, hio, _⟩ := ht.calm.kept
  rw [hcfgu] at hmem hio
  refine ⟨t, seen, hexec, ⟨ht.seq, hrecords.raised, ht.polls⟩, hownt, fun g hg => ?_, fun n hn => ?_, fun hinactive => ?_,
    ?_, hlaunched.few, hlaunched.addressed⟩
  · have hplaced := hgoodt.strobesAsPlaced hownt g hg
    rwa [ht.seq] at hplaced
  · rw [hmem]
    exact hlaunched.value n hn
  · rw [hmem]
    exact hlaunched.mem hinactive
  · rw [hio, ← hlaunched.io]
    rfl

end Sys2Proof.Machine
end

section
/-! The state after reset (R210 to R214). -/

namespace Sys2Proof.Machine

/-- Settles O54: at reset the invariants of R30 say how the lines and groups stand, and the rest is read off the state. -/
theorem resetState : Obligations.ResetState := by
  have hgood : Good State.reset := goodAtReset
  obtain ⟨hreq, haddr, hstrobes⟩ := hgood.idleReleased rfl rfl
  obtain ⟨_, hreset⟩ := hgood.target
  obtain ⟨_, hclken⟩ := hgood.clock.1 rfl
  have hphase : phase State.reset = .released := by
    unfold phase
    rw [hreq]
    rfl
  exact ⟨rfl, rfl, rfl, rfl, rfl, rfl, rfl, hreq, hreset, hclken, hgood.roles.1, haddr, hgood.dataFloats rfl, hstrobes, rfl,
    by decide, rfl, rfl, rfl, rfl, hgood.sensed_busack, hphase⟩

end Sys2Proof.Machine
end
